-- ==== Sys2Proof/Word.lean ====
section
/-! DEFINITION. The widths of the block's values (00_scope.md R10, R12). -/

namespace Sys2Proof

/-- A byte on the bus (R10). -/
abbrev Byte := BitVec 8

/-- A 7-bit I2C device address (R19, R28). -/
abbrev DevAddr := BitVec 7

/-- The 16-bit command word, and a conversion pair read as one word (R47, R56). -/
abbrev Word16 := BitVec 16

/-- The 4-bit channel tag of a conversion pair (R56). -/
abbrev Tag := BitVec 4

/-- The 12-bit datum of a conversion pair (R56). -/
abbrev Datum := BitVec 12

end Sys2Proof
end

