-- ==== Sys2Proof/Machine/Constants.lean ====
section
/-! DEFINITION. The literals the source fixes (00_scope.md R8, D24; op codes R43, D2). -/

namespace Sys2Proof.Machine

/-- `NCH`, the number of voltage channels (R8). -/
def nch : Nat := 8
/-- `SAMPLE_BITS` (R8). -/
def sampleBits : Nat := 12
/-- `TAG_BITS` (R8). -/
def tagBits : Nat := 4
/-- `TEMP_TAG` (R8). -/
def tempTag : Tag := 8#4
/-- `TEMP_LSB`, in °C per unit (R8). -/
def tempLsb : Rat := mkRat 1 4
/-- `REG_CMD` (R8, R29). -/
def regCmd : Byte := 0x00#8
/-- `REG_VOLT` (R8, R29). -/
def regVolt : Byte := 0x01#8
/-- `REG_TEMP` (R8, R29). -/
def regTemp : Byte := 0x02#8
/-- `DEV_ADDR_DEFAULT` (R8, R19). -/
def devAddrDefault : DevAddr := 0x2F#7

/-- CFG's operation code (R43). -/
def opCfg : Byte := 0x00#8
/-- RDV's operation code (R43). -/
def opRdv : Byte := 0x01#8
/-- RDT's operation code (R43). -/
def opRdt : Byte := 0x02#8

/-- The mask of the command word's reserved bits 14:12 and 10:8 (R47, R51; the table's CMDWORD row). -/
def reservedCommandMask : Word16 := 0x7700#16

/-- The message of RDT's ConfigurationError (R79, R87). -/
def tempNotEnabledMessage : String := "temperature sensor not enabled"

end Sys2Proof.Machine
end

