-- ==== Sys2Proof/Config.lean ====
section
/-! DEFINITION. What is fixed for one machine (00_scope.md R9) and the values the spec leaves free. -/

namespace Sys2Proof

/-- `CELSIUS_REPR` (R9, D13, I8): an exact rational, or a binary floating-point format given by the
number of bits of its significand. -/
inductive CelsiusRepr where
  | exact
  | binary (significandBits : Nat)
deriving DecidableEq, Repr

/-- A value is legal when a binary format has a significand of at least 12 bits (R9). -/
def CelsiusRepr.legal : CelsiusRepr → Bool
  | .exact => true
  | .binary p => decide (12 ≤ p)

/-- A Celsius value in its representation.  `binary` is a normalised number: `significand` has exactly
`significandBits` bits (or is zero) and the value is `± significand * 2 ^ exponent` (DESIGN CHOICE,
log 16). -/
inductive Celsius where
  | exact (value : Rat)
  | binary (significandBits : Nat) (negative : Bool) (significand : Nat) (exponent : Int)
deriving DecidableEq, Repr

/-- The parameters "the model takes as arguments" (R9), but for `devAddr`, which is an operand of CFG.
They stand in State (log 13) and no step writes them. -/
structure Params where
  /-- `SETTLE_DELAY_MS`: a lower bound in milliseconds, "any duration ≥ 100 ms" (R9, D7, I6), whole or
  not.  R9 names no number type; durations are rational numbers of ms (DESIGN CHOICE, log 21). -/
  settleDelayMs : Rat
  /-- `COMBINED_READ`: a read is one transaction (`true`) or two (D10, I7). -/
  combinedRead : Bool
  /-- `CELSIUS_REPR` (D13, I8). -/
  celsiusRepr : CelsiusRepr
deriving DecidableEq, Repr

/-- The defaults of R9. -/
def Params.default : Params := ⟨100, true, .exact⟩

/-- The legal values of R9. -/
def Params.legal (p : Params) : Bool := decide (100 ≤ p.settleDelayMs) && p.celsiusRepr.legal

/-- A transport's error value `e`: opaque to the block and passed through unchanged (R88, I10, N17).
One natural number stands for each value a transport may report (DESIGN CHOICE, log 8). -/
abbrev ErrorValue := Nat

/-- What the transport answers to one bus transaction (R30 to R32): the bytes it read (none for a
write), or its own error value.  The byte count is judged by the block's bus primitive (R32). -/
inductive Answer where
  | bytes (bs : List Byte)
  | error (e : ErrorValue)
deriving DecidableEq, Repr, Inhabited

/-- Free value: the transport's answer to the transaction of each draw, once the script of answers in
State is used up (R32, I5: "the block assumes nothing else of the answer"; log 6). -/
opaque Config.freeAnswer : Nat → Answer

/-- Free value: the `e` of the TransportError that stands for an answer of the wrong byte count, by
the count requested and the count received (R32 and D19 give the status and no `e`; log 7). -/
opaque Config.wrongCountError : Nat → Nat → ErrorValue

end Sys2Proof
end

