-- ==== Sys2Proof/Syntax.lean ====
section
/-! DEFINITION. The instructions: one constructor per row of spec/opcode_table.json. -/

namespace Sys2Proof

/-- The ChannelSet: eight flags in index order, `ch[i]` for channel `i` (R13, R16, R45). -/
abbrev ChannelSet := Vector Bool 8

/-- The rows of the opcode table.  CFG, RDV and RDT are the host's operations (R43), CFGW is their one
pseudo-instruction (R46).  The other four are the words that cross the bus, with their fields as
operands; each is one step of the operation it belongs to (log 1). -/
inductive Instr where
  /-- CFG `ch`, `t`, `nd`, `addr` (R45, R64). -/
  | cfg (ch : ChannelSet) (t nd : Bool) (addr : DevAddr)
  /-- RDV (R71). -/
  | rdv
  /-- RDT (R78). -/
  | rdt
  /-- CFGW `w`, `addr` (R46). -/
  | cfgw (w : Word16) (addr : DevAddr)
  /-- The command word a CFG sends: T, N and the channel flags (R47). -/
  | cmdword (ch : ChannelSet) (t nd : Bool)
  /-- A pair read from register 0x01 with a tag 0..7 (R58). -/
  | vsample (tag : Tag) (raw : Datum)
  /-- A pair read from register 0x01 with a tag 8..15 (R58, R74). -/
  | vsampleInvalid (tag : Tag) (raw : Datum)
  /-- A pair read from register 0x02 with the tag 8 (R59). -/
  | tsample (raw : Datum)
deriving DecidableEq, Repr

end Sys2Proof
end

