-- ==== Sys2Proof/Machine/Operands.lean ====
section
/-! DEFINITION. The block's bit-level functions: the command word (30_encoding.md R47 to R53), the
conversion pair (R56 to R60) and the Celsius value (42_read_temperature.md R81, R82). -/

namespace Sys2Proof.Machine

/-- `EncodeHigh(t, nd)` (R48). -/
def encodeHigh (t nd : Bool) : Byte :=
  (if t then 0x80#8 else 0x00#8) ||| (if nd then 0x08#8 else 0x00#8)

/-- `EncodeLow(ch)`: the OR of `1 << (7 - i)` over the enabled channels `i` (R49). -/
def encodeLow (ch : ChannelSet) : Byte :=
  (List.finRange 8).foldl
    (fun acc i => if ch[i] then acc ||| (1#8 <<< (7 - i.val)) else acc) 0x00#8

/-- `EncodeCmd(ch, t, nd) = EncodeHigh(t, nd) || EncodeLow(ch)` (R50). -/
def encodeCmd (ch : ChannelSet) (t nd : Bool) : Word16 := encodeHigh t nd ++ encodeLow ch

/-- `DecodeMembership(b)[i] = b[7 - i]` (R52). -/
def decodeMembership (b : Byte) : ChannelSet := Vector.ofFn fun i => b.getLsbD (7 - i.val)

/-- `popcount8(ch)`, the active channel count `N` (R53, R20). -/
def popcount8 (ch : ChannelSet) : Nat := ch.count true

/-- CFG's bus frame: register address, high byte, low byte (R54, R70). -/
def commandFrame (ch : ChannelSet) (t nd : Bool) : List Byte :=
  [regCmd, encodeHigh t nd, encodeLow ch]

/-- The fields of a command word, read as CFGW's expansion reads them (R46). -/
def commandFields (w : Word16) : ChannelSet × Bool × Bool :=
  (decodeMembership (w.extractLsb' 0 8), w.getLsbD 15, w.getLsbD 11)

/-- The tag of a pair: `(hi >> 4) & 0xF` (R57). -/
def pairTag (hi : Byte) : Tag := hi.extractLsb' 4 4

/-- The datum of a pair: `((hi & 0xF) << 8) | lo` (R57). -/
def pairRaw (hi lo : Byte) : Datum := hi.extractLsb' 0 4 ++ lo

/-- `DecodePair(hi, lo) = (tag, raw)` (R57). -/
def decodePair (hi lo : Byte) : Tag × Datum := (pairTag hi, pairRaw hi lo)

/-- The pair a tag and a datum stand in: high byte first (R56, R33). -/
def encodePair (tag : Tag) (raw : Datum) : Byte × Byte :=
  (tag ++ raw.extractLsb' 8 4, raw.extractLsb' 0 8)

/-- A burst as pairs, from byte 0, in receive order (R34, R61). -/
def pairsOf : List Byte → List (Byte × Byte)
  | hi :: lo :: rest => (hi, lo) :: pairsOf rest
  | _ => []

/-- `sext_12(raw)` (R60, R81). -/
def sext12 (raw : Datum) : Int :=
  if raw.toNat > 0x7FF then (raw.toNat : Int) - 0x1000 else (raw.toNat : Int)

/-- `celsius = q * 0.25` in a representation (R82).  A binary significand is filled up to its width;
the quotient by 4 goes into the exponent, so nothing is rounded (log 16). -/
def celsiusOf : CelsiusRepr → Int → Celsius
  | .exact, q => .exact (mkRat q 4)
  | .binary p, q =>
    if q = 0 then .binary p false 0 0
    else
      .binary p (decide (q < 0)) (q.natAbs <<< (p - 1 - q.natAbs.log2))
        ((q.natAbs.log2 : Int) - ((p : Int) - 1) - 2)

/-- The number a represented value stands for. -/
def celsiusValue : Celsius → Rat
  | .exact v => v
  | .binary _ negative significand exponent =>
    mkRat ((if negative then -1 else 1) * (significand * 2 ^ exponent.toNat)) (2 ^ (-exponent).toNat)

end Sys2Proof.Machine
end

