-- ==== Sys2Proof/WellFormed.lean ====
section
/-! DEFINITION. Which instructions their encodings admit. -/

namespace Sys2Proof

open Machine

/-- Every operand of CFG is legal (R45), a CMDWORD cannot set a reserved bit (R51), CFGW needs its
reserved bits zero (R46), and a voltage pair's tag decides which of its two rows it is (R58). -/
def Instr.wellFormed : Instr → Bool
  | .cfg _ _ _ _ => true
  | .rdv => true
  | .rdt => true
  | .cfgw w _ => w &&& reservedCommandMask == 0#16
  | .cmdword _ _ _ => true
  | .vsample tag _ => decide (tag.toNat < 8)
  | .vsampleInvalid tag _ => decide (8 ≤ tag.toNat)
  | .tsample _ => true

end Sys2Proof
end

