-- ==== Sys2Proof/Decode.lean ====
section
/-! DEFINITION. Decoding what the block is given, and the encoder beside it (30_encoding.md). -/

namespace Sys2Proof

open Machine

/-- A host request: a record `{op, operands}` (R43).  The operands are those of CFG (R45), and a
request of another op carries them unread; `addr` is absent when the request omits it.  The spec
gives the operands no binary layout, so the record is the encoding (DESIGN CHOICE, log 3). -/
structure Request where
  op   : Byte
  ch   : ChannelSet
  t    : Bool
  nd   : Bool
  addr : Option DevAddr
deriving DecidableEq, Repr

/-- A request with no operands, of any operation code (RDV and RDT have none, R45). -/
def Request.bare (op : Byte) : Request :=
  ⟨op, #v[false, false, false, false, false, false, false, false], false, false, none⟩

/-- A thing that is decoded, with the place it comes from: pair decoding depends on the register the
pair was read from, "so the mode is never read from the data" (R63). -/
inductive Fetched where
  /-- A host request (R43). -/
  | request (r : Request)
  /-- A 16-bit word in the command layout (R47). -/
  | command (w : Word16)
  /-- A pair read from register 0x01 (R58). -/
  | voltagePair (hi lo : Byte)
  /-- A pair read from register 0x02 (R59). -/
  | temperaturePair (hi lo : Byte)
deriving DecidableEq, Repr

/-- Why something is no instruction of the table (R62). -/
inductive Reject where
  /-- A reserved operation code 0x03..0xFF (R44). -/
  | reservedOp (op : Byte)
  /-- A word in the command layout with a bit of 14:12 or 10:8 set (R47). -/
  | reservedCommandBits (w : Word16)
  /-- A pair from register 0x02 whose tag is not 8 (R59). -/
  | temperatureTag (tag : Tag)
deriving DecidableEq, Repr

/-- The decoder's answer. -/
inductive Decoded where
  | instr (i : Instr)
  | reject (r : Reject)
deriving DecidableEq, Repr

/-- Every 8-bit op decodes to exactly one of CFG, RDV, RDT or a reserved code (R43, R44); an omitted
address is 0x2F (R45). -/
def decodeRequest (r : Request) : Decoded :=
  if r.op = opCfg then .instr (.cfg r.ch r.t r.nd (r.addr.getD devAddrDefault))
  else if r.op = opRdv then .instr .rdv
  else if r.op = opRdt then .instr .rdt
  else .reject (.reservedOp r.op)

/-- A word in the command layout (R47). -/
def decodeCommand (w : Word16) : Decoded :=
  if w &&& reservedCommandMask = 0#16 then
    .instr (.cmdword (commandFields w).1 (commandFields w).2.1 (commandFields w).2.2)
  else .reject (.reservedCommandBits w)

/-- A pair from register 0x01 (R57, R58): both rows together take every pair. -/
def decodeVoltagePair (hi lo : Byte) : Decoded :=
  if (pairTag hi).toNat < 8 then .instr (.vsample (pairTag hi) (pairRaw hi lo))
  else .instr (.vsampleInvalid (pairTag hi) (pairRaw hi lo))

/-- A pair from register 0x02 (R57, R59). -/
def decodeTemperaturePair (hi lo : Byte) : Decoded :=
  if pairTag hi = tempTag then .instr (.tsample (pairRaw hi lo))
  else .reject (.temperatureTag (pairTag hi))

/-- The decoder, total on everything the block can be given. -/
def decode : Fetched → Decoded
  | .request r => decodeRequest r
  | .command w => decodeCommand w
  | .voltagePair hi lo => decodeVoltagePair hi lo
  | .temperaturePair hi lo => decodeTemperaturePair hi lo

/-- CFGW's expansion: `CFG ch={ i : w[7-i] = 1 }, t=w[15], nd=w[11]` (R46). -/
def expandCfgw (w : Word16) (addr : DevAddr) : Instr :=
  .cfg (commandFields w).1 (commandFields w).2.1 (commandFields w).2.2 addr

/-- The core instruction an instruction's words decode to: a CFGW's are those of its expansion
(R46, log 5). -/
def Instr.core : Instr → Instr
  | .cfgw w addr => expandCfgw w addr
  | i => i

/-- The request of a CFG (R43, R45). -/
def cfgRequest (ch : ChannelSet) (t nd : Bool) (addr : DevAddr) : Request :=
  ⟨opCfg, ch, t, nd, some addr⟩

/-- The words of an instruction (R43, R46, R47, R56). -/
def encode : Instr → Fetched
  | .cfg ch t nd addr => .request (cfgRequest ch t nd addr)
  | .rdv => .request (Request.bare opRdv)
  | .rdt => .request (Request.bare opRdt)
  | .cfgw w addr =>
    .request (cfgRequest (commandFields w).1 (commandFields w).2.1 (commandFields w).2.2 addr)
  | .cmdword ch t nd => .command (encodeCmd ch t nd)
  | .vsample tag raw => .voltagePair (encodePair tag raw).1 (encodePair tag raw).2
  | .vsampleInvalid tag raw => .voltagePair (encodePair tag raw).1 (encodePair tag raw).2
  | .tsample raw => .temperaturePair (encodePair tempTag raw).1 (encodePair tempTag raw).2

/-- What a bare word of the opcode table stands for.  An 8-bit word is an operation code with every
operand zero.  A 16-bit word carries no register (R63), and the table's 16-bit rows overlap, so an
order is chosen: the narrowest row first, that is CMDWORD (six fixed bits), then TSAMPLE (four), then
the voltage rows (one); only a word 0x8n00, where CMDWORD names no channel, goes to TSAMPLE
(DESIGN CHOICE, log 4).  Inside the machine the context decides and no order is needed. -/
def fetchedOfTableWord (nbits w : Nat) : Option Fetched :=
  if nbits = 8 then
    some (.request { Request.bare (BitVec.ofNat 8 w) with addr := some 0#7 })
  else if nbits = 16 then
    let word := BitVec.ofNat 16 w
    let hi := word.extractLsb' 8 8
    let lo := word.extractLsb' 0 8
    if word &&& reservedCommandMask = 0#16 ∧ ¬(pairTag hi = tempTag ∧ lo = 0x00#8) then
      some (.command word)
    else if pairTag hi = tempTag then some (.temperaturePair hi lo)
    else some (.voltagePair hi lo)
  else none

/-- The instruction the decoder reads from a word of the opcode table. -/
def decodeTableWord (nbits w : Nat) : Option Instr :=
  match fetchedOfTableWord nbits w with
  | none => none
  | some f =>
    match decode f with
    | .instr i => some i
    | .reject _ => none

end Sys2Proof
end

