-- ==== Sys2Proof/Machine/State.lean ====
section
/-! DEFINITION. The machine's state, its responses, and the reasons a step can stop
(10_state.md, 60_exceptions.md R87, 70_reset_and_hazards.md R104). -/

namespace Sys2Proof.Machine

/-- `phase` (R15). -/
inductive Phase where
  | unconfigured
  | settling
  | ready
deriving DecidableEq, Repr

/-- The two result registers a read can name (R29). -/
inductive ResultReg where
  | voltage
  | temperature
deriving DecidableEq, Repr

/-- A ConversionSample: channel 0..7 and an unsigned 12-bit value (R13, R76). -/
structure Sample where
  channel  : Fin 8
  rawValue : Datum
deriving DecidableEq, Repr

/-- The error classes with the info each records (R87, D14). -/
inductive Error where
  /-- The transport's own error value (R88). -/
  | transport (e : ErrorValue)
  /-- A feature-gated operation without its feature (R89). -/
  | configuration (message : String)
  /-- A tag outside its register's domain (R90). -/
  | decode (reg : Byte) (pair : Nat) (tag : Tag)
  /-- A read before a successful CFG (R91). -/
  | notConfigured
  /-- A CFG after a successful one (R92). -/
  | alreadyConfigured
  /-- A reserved operation code (R93). -/
  | illegalOp (op : Byte)
deriving DecidableEq, Repr

/-- A response: one status with its result or its info (R87).  The first three are `OK`. -/
inductive Response where
  /-- CFG's `(OK, cmdWord)` (R69). -/
  | configured (cmdWord : Word16)
  /-- RDV's `(OK, samples)` (R76). -/
  | voltages (samples : List Sample)
  /-- RDT's `(OK, q, celsius)` (R82). -/
  | temperature (q : Int) (celsius : Celsius)
  | error (e : Error)
deriving DecidableEq, Repr

/-- A bus transaction as issued (R30, R31, R35). -/
inductive Transaction where
  /-- One write of a byte sequence, first byte first; also the address phase of a split read. -/
  | write (dev : DevAddr) (sent : List Byte)
  /-- A combined read: the register byte sent, then `received` bytes asked for. -/
  | read (dev : DevAddr) (reg : Byte) (received : Nat)
  /-- The data phase of a split read. -/
  | readData (dev : DevAddr) (received : Nat)
deriving DecidableEq, Repr

/-- What the host does to the block, in order (R2, R106). -/
inductive Stimulus where
  /-- The host presents a request; it is held while another is in flight (R113). -/
  | request (r : Request)
  /-- Reset, applied as soon as the spec lets it be: between requests, or while a CFG is SETTLING. -/
  | reset
  /-- Reset, applied between requests only: a CFG that is SETTLING responds first (log 10). -/
  | resetBetweenRequests
deriving DecidableEq, Repr

/-- An operation in flight between two of its steps (log 1). -/
inductive Transfer where
  /-- CFG's operands, until its command write returns (R64). -/
  | command (dev : DevAddr) (ch : ChannelSet) (t nd : Bool)
  /-- A split read between its address phase and its data phase (R31). -/
  | awaitData (reg : ResultReg) (received : Nat)
  /-- RDV's burst: the index `k` of the pair at hand, that pair, the pairs after it, and the samples
  so far (`bytes`, `k` and `out` of R71). -/
  | voltages (index : Nat) (pair : Byte × Byte) (rest : List (Byte × Byte)) (out : List Sample)
  /-- RDT's pair (R78). -/
  | temperature (hi lo : Byte)
deriving DecidableEq, Repr

/-- The state of the machine: the block's record `S` (R14) with the settle timer and the request
index (R104), the operation in flight (log 1), and, as plain data, what the block is given and what
it has given (log 13, log 15). -/
structure State where
  /-- The lifecycle (R15). -/
  phase : Phase
  /-- The ChannelSet, in index order (R16). -/
  chanEn : ChannelSet
  /-- Temperature enable (R17). -/
  tempEn : Bool
  /-- Noise-delay enable (R18). -/
  ndEn : Bool
  /-- The device address (R19). -/
  devAddr : DevAddr
  /-- The settle timer: the duration in ms it was started for, while it runs (R26, R100). -/
  timer : Option Rat
  /-- The index of the next host request (R23). -/
  k : Nat
  /-- The operation in flight (log 1). -/
  transfer : Option Transfer
  /-- The parameters of R9 (log 13). -/
  params : Params
  /-- What the host will still present (log 15). -/
  pending : List Stimulus
  /-- The transport's coming answers (R32, log 6). -/
  answers : List Answer
  /-- How many free answers have been drawn (log 6). -/
  draws : Nat
  /-- The responses given, oldest first (R115). -/
  responses : List Response
  /-- The bus transactions issued, oldest first (R115). -/
  bus : List Transaction
deriving DecidableEq, Repr

/-- Why a step stops with a fault.  `step` never reaches one: it runs each of these instructions only
with its operation in flight. -/
inductive Fault where
  /-- Raised by CMDWORD when no CFG is waiting to write its command word (log 18).  Safe. -/
  | noCommandInFlight
  /-- Raised by VSAMPLE and VSAMPLE_INVALID when no burst of an RDV is in flight (log 18).  Safe. -/
  | noVoltageReadInFlight
  /-- Raised by TSAMPLE when no pair of an RDT is in flight (log 18).  Safe. -/
  | noTemperatureReadInFlight
deriving DecidableEq, Repr

/-- Why an instruction is refused. -/
inductive Refusal where
  /-- Raised by an arm of `exec` whose instruction has no meaning yet; no arm does.  Safe. -/
  | notModelled (mnemonic : String)
  /-- Raised by CFGW when its word has a reserved bit set: the transcriber refuses the line and there
  is no request (R46, I1).  Safe. -/
  | transcriberRefused (w : Word16)
deriving DecidableEq, Repr

/-- The empty ChannelSet. -/
def noChannels : ChannelSet := #v[false, false, false, false, false, false, false, false]

/-- The machine right after reset (R104), with the default parameters (R9), nothing presented by the
host or the transport and nothing observed yet (log 13, log 15, log 20). -/
def State.reset : State where
  phase := .unconfigured
  chanEn := noChannels
  tempEn := false
  ndEn := false
  devAddr := devAddrDefault
  timer := none
  k := 0
  transfer := none
  params := Params.default
  pending := []
  answers := []
  draws := 0
  responses := []
  bus := []

end Sys2Proof.Machine
end

