-- ==== Sys2Proof/Machine/Flags.lean ====
section
/-! DEFINITION. The block has no flags or condition codes (10_state.md R24).  An operation's outcome
is the status of its response; this file gives the status its number (60_exceptions.md R87). -/

namespace Sys2Proof.Machine

/-- The numeric status of an error (R87, D3). -/
def Error.status : Error → Nat
  | .transport _ => 1
  | .configuration _ => 2
  | .decode _ _ _ => 3
  | .notConfigured => 4
  | .alreadyConfigured => 5
  | .illegalOp _ => 6

/-- The numeric status of a response (R87, D3). -/
def Response.status : Response → Nat
  | .configured _ => 0
  | .voltages _ => 0
  | .temperature _ _ => 0
  | .error e => e.status

/-- A response is a success when its status is `OK` (R87). -/
def Response.isOk (r : Response) : Bool := r.status == 0

end Sys2Proof.Machine
end

