-- ==== Sys2Proof/Machine/Ops.lean ====
section
/-! DEFINITION. The operations the meanings share: responding and raising (60_exceptions.md R86, R95),
the bus primitives (20_memory.md R30 to R32), delivering a read, the settle event and reset. -/

namespace Sys2Proof.Machine

/-- `respond`: the operation ends, its response goes to the host, and the request index advances by
exactly 1 (R11, R23). -/
def respond (r : Response) (s : State) : State :=
  { s with responses := s.responses ++ [r], k := s.k + 1, transfer := none }

/-- `raise`: the one way an error is taken.  It saves nothing, changes no field of `S` and transfers
control nowhere; the error is the response (R86, R95).  There is no return from it (R96). -/
def raise (e : Error) (s : State) : State := respond (.error e) s

/-- The transport's answer to the transaction issued next: the next of the script, else a free value
(R32, log 6). -/
def nextAnswer (s : State) : Answer :=
  match s.answers with
  | a :: _ => a
  | [] => Config.freeAnswer s.draws

/-- Issue one transaction: it goes on the bus, and its answer is used up (R38, log 6). -/
def issue (tr : Transaction) (s : State) : State :=
  { s with
    bus := s.bus ++ [tr]
    answers := s.answers.tail
    draws := if s.answers.isEmpty then s.draws + 1 else s.draws }

/-- How a transaction that asks for bytes ends (R30, R31). -/
inductive BusResult where
  | ok (bytes : List Byte)
  | error (e : ErrorValue)
deriving DecidableEq, Repr

/-- A byte count other than the one asked for is a TransportError, never a short or long burst
(R32, D19). -/
def judge (received : Nat) : Answer → BusResult
  | .bytes bs =>
    if bs.length = received then .ok bs else .error (Config.wrongCountError received bs.length)
  | .error e => .error e

/-- How the transaction issued next ends, when it asks for `received` bytes; a write asks for none
(R35). -/
def busResult (received : Nat) (s : State) : BusResult := judge received (nextAnswer s)

/-- The register-address byte of a result register (R29). -/
def ResultReg.address : ResultReg → Byte
  | .voltage => regVolt
  | .temperature => regTemp

/-- The bytes of a completed read go to the operation that asked for them: RDV's burst is parsed in
pairs from byte 0 (R34, R71), RDT's two bytes are its pair (R78). -/
def deliver (reg : ResultReg) (bytes : List Byte) (s : State) : State :=
  match reg with
  | .voltage =>
    match pairsOf bytes with
    | [] => respond (.voltages []) s
    | pair :: rest => { s with transfer := some (.voltages 0 pair rest []) }
  | .temperature => { s with transfer := some (.temperature (bytes.getD 0 0) (bytes.getD 1 0)) }

/-- The end of a read's last phase: its bytes, or `TransportError(e)` with no retry (R88). -/
def finishRead (reg : ResultReg) (result : BusResult) (s : State) : State :=
  match result with
  | .ok bytes => deliver reg bytes s
  | .error e => raise (.transport e) s

/-- The end of a split read's address phase: the data phase is next, or `TransportError(e)` and no data
phase (R31, D10). -/
def finishAddressPhase (reg : ResultReg) (received : Nat) (result : BusResult) (s : State) : State :=
  match result with
  | .ok _ => { s with transfer := some (.awaitData reg received) }
  | .error e => raise (.transport e) s

/-- `BusRead(S.devAddr, reg, received)` (R31): one transaction, or the address phase of two, which is a
BusWrite of the register byte alone. -/
def startRead (reg : ResultReg) (received : Nat) (s : State) : State :=
  if s.params.combinedRead then
    finishRead reg (busResult received s) (issue (.read s.devAddr reg.address received) s)
  else
    finishAddressPhase reg received (busResult 0 s) (issue (.write s.devAddr [reg.address]) s)

/-- The data phase of a split read (R31). -/
def readDataPhase (reg : ResultReg) (received : Nat) (s : State) : State :=
  finishRead reg (busResult received s) (issue (.readData s.devAddr received) s)

/-- CFG up to its bus write: refused unless UNCONFIGURED (R64, R68, R92). -/
def startConfigure (ch : ChannelSet) (t nd : Bool) (addr : DevAddr) (s : State) : State :=
  if s.phase = .unconfigured then { s with transfer := some (.command addr ch t nd) }
  else raise .alreadyConfigured s

/-- CFG's latch (R65) and the start of the settle timer (R66, R100). -/
def latchConfiguration (ch : ChannelSet) (t nd : Bool) (dev : DevAddr) (s : State) : State :=
  { s with
    chanEn := ch, tempEn := t, ndEn := nd, devAddr := dev
    phase := .settling, timer := some s.params.settleDelayMs, transfer := none }

/-- The end of CFG's command write: the latch, or `TransportError(e)` with `S` unchanged (R67). -/
def finishCommand (ch : ChannelSet) (t nd : Bool) (dev : DevAddr) (result : BusResult) (s : State) :
    State :=
  match result with
  | .ok _ => latchConfiguration ch t nd dev s
  | .error e => raise (.transport e) s

/-- CFG's one `BusWrite(dev, [0x00, hi, lo])` (R30, R70). -/
def writeCommand (dev : DevAddr) (ch : ChannelSet) (t nd : Bool) (s : State) : State :=
  finishCommand ch t nd dev (busResult 0 s) (issue (.write dev (commandFrame ch t nd)) s)

/-- The settle-elapsed event: READY, and CFG responds with the word it wrote (R66, R69, R20). -/
def settleElapsed (s : State) : State :=
  respond (.configured (encodeCmd s.chanEn s.tempEn s.ndEn)) { s with phase := .ready, timer := none }

/-- One turn of RDV's loop (R71): a tag above 7 fails the whole read at its pair index (R74, R97), any
other pair becomes a sample (R75); after the last pair the samples go to the host (R76). -/
def receiveVoltagePair (tag : Tag) (raw : Datum) (index : Nat) (rest : List (Byte × Byte))
    (out : List Sample) (s : State) : State :=
  if h : tag.toNat < 8 then
    match rest with
    | [] => respond (.voltages (out ++ [⟨⟨tag.toNat, h⟩, raw⟩])) s
    | pair :: rest' =>
      { s with
        transfer := some (.voltages (index + 1) pair rest' (out ++ [⟨⟨tag.toNat, h⟩, raw⟩])) }
  else raise (.decode regVolt index tag) s

/-- RDT's result from its datum (R81, R82). -/
def receiveTemperature (raw : Datum) (s : State) : State :=
  respond (.temperature (sext12 raw) (celsiusOf s.params.celsiusRepr (sext12 raw))) s

/-- What the block answers to what the decoder rejects: IllegalOp for a reserved op code (R44, R93),
DecodeError for a temperature pair's tag (R80).  The block never decodes a command word (R52), so the
last case does not arise and changes nothing. -/
def answerReject : Reject → State → State
  | .reservedOp op, s => raise (.illegalOp op) s
  | .temperatureTag tag, s => raise (.decode regTemp 0 tag) s
  | .reservedCommandBits _, s => s

/-- Reset of the block (R104): it cancels the settle timer and whatever is in flight, so a CFG that is
SETTLING never responds (R106), and it issues no bus transaction (R105).  What is outside the block,
the inputs and the observation, stays (log 10). -/
def resetBlock (s : State) : State :=
  { s with
    phase := .unconfigured, chanEn := noChannels, tempEn := false, ndEn := false
    devAddr := devAddrDefault, timer := none, k := 0, transfer := none }

end Sys2Proof.Machine
end

