-- ==== Sys2Proof/Machine/Configure.lean ====
section
/-! DEFINITION. The meanings of CFG, CFGW and CMDWORD (40_configure.md, 30_encoding.md R46, R47). -/

namespace Sys2Proof.Machine

/-- CFG (R64): its phase check; the command word goes out at the next step (log 1). -/
def execCfg (ch : ChannelSet) (t nd : Bool) (addr : DevAddr) (s : State) :
    Host.Outcome State Fault Refusal :=
  .next (startConfigure ch t nd addr s)

/-- CFGW (R46): the CFG it expands to, unless a reserved bit is set, which the transcriber refuses. -/
def execCfgw (w : Word16) (addr : DevAddr) (s : State) : Host.Outcome State Fault Refusal :=
  if w &&& reservedCommandMask = 0#16 then
    .next (startConfigure (commandFields w).1 (commandFields w).2.1 (commandFields w).2.2 addr s)
  else .refused (.transcriberRefused w)

/-- CMDWORD (R47, R54): the word with these fields is sent to the address of the CFG in flight, in one
write (R70), and on success the fields are the ones latched (R65, log 2). -/
def execCmdword (ch : ChannelSet) (t nd : Bool) (s : State) : Host.Outcome State Fault Refusal :=
  match s.transfer with
  | some (.command dev _ _ _) => .next (writeCommand dev ch t nd s)
  | _ => .fault .noCommandInFlight

end Sys2Proof.Machine
end

