-- ==== Sys2Proof/Machine/ReadTemperature.lean ====
section
/-! DEFINITION. The meanings of RDT and TSAMPLE (42_read_temperature.md). -/

namespace Sys2Proof.Machine

/-- RDT (R78): the phase check (R91), the temperature gate with no transaction (R79), else one read of
2 bytes from register 0x02 (R85). -/
def execRdt (s : State) : Host.Outcome State Fault Refusal :=
  .next
    (if s.phase = .ready then
      if s.tempEn then startRead .temperature 2 s
      else raise (.configuration tempNotEnabledMessage) s
    else raise .notConfigured s)

/-- TSAMPLE (R59, R81, R82): the pair in flight is the temperature. -/
def execTsample (raw : Datum) (s : State) : Host.Outcome State Fault Refusal :=
  match s.transfer with
  | some (.temperature _ _) => .next (receiveTemperature raw s)
  | _ => .fault .noTemperatureReadInFlight

end Sys2Proof.Machine
end

