-- ==== Sys2Proof/Machine/ReadVoltages.lean ====
section
/-! DEFINITION. The meanings of RDV, VSAMPLE and VSAMPLE_INVALID (41_read_voltages.md). -/

namespace Sys2Proof.Machine

/-- RDV (R71): the phase check (R91), the empty channel set with no transaction (R72), else one read of
`2*N` bytes from register 0x01 (R77). -/
def execRdv (s : State) : Host.Outcome State Fault Refusal :=
  .next
    (if s.phase = .ready then
      if popcount8 s.chanEn = 0 then respond (.voltages []) s
      else startRead .voltage (2 * popcount8 s.chanEn) s
    else raise .notConfigured s)

/-- VSAMPLE (R58, R73, R76): a pair of the burst in flight becomes a sample, by its own tag. -/
def execVsample (tag : Tag) (raw : Datum) (s : State) : Host.Outcome State Fault Refusal :=
  match s.transfer with
  | some (.voltages index _ rest out) => .next (receiveVoltagePair tag raw index rest out s)
  | _ => .fault .noVoltageReadInFlight

/-- VSAMPLE_INVALID (R58, R74): the pair fails the whole read. -/
def execVsampleInvalid (tag : Tag) (raw : Datum) (s : State) : Host.Outcome State Fault Refusal :=
  match s.transfer with
  | some (.voltages index _ rest out) => .next (receiveVoltagePair tag raw index rest out s)
  | _ => .fault .noVoltageReadInFlight

end Sys2Proof.Machine
end

