-- ==== Sys2Proof/Machine/Dispatch.lean ====
section
/-! DEFINITION. The dispatch: one arm per instruction, each one call of its meaning. -/

namespace Sys2Proof.Machine

def exec (i : Instr) (s : State) : Host.Outcome State Fault Refusal :=
  match i with
  | .cfg ch t nd addr => Sys2Proof.Machine.execCfg ch t nd addr s
  | .rdv => Sys2Proof.Machine.execRdv s
  | .rdt => Sys2Proof.Machine.execRdt s
  | .cfgw w addr => Sys2Proof.Machine.execCfgw w addr s
  | .cmdword ch t nd => Sys2Proof.Machine.execCmdword ch t nd s
  | .vsample tag raw => Sys2Proof.Machine.execVsample tag raw s
  | .vsampleInvalid tag raw => Sys2Proof.Machine.execVsampleInvalid tag raw s
  | .tsample raw => Sys2Proof.Machine.execTsample raw s

end Sys2Proof.Machine
end

