-- ==== Sys2Proof/Machine/Sequencer.lean ====
section
/-! DEFINITION. What happens at the next step: the operation in flight goes on, the settle event or a
reset fires, or the host's next request is accepted (20_memory.md R38, 70_reset_and_hazards.md R106,
R109, R113, R115). -/

namespace Sys2Proof.Machine

/-- What a step does. -/
inductive Event where
  /-- Nothing is in flight and the host presents nothing: the block waits (R104, R115). -/
  | idle
  /-- Reset is applied (R106). -/
  | reset
  /-- The settle timer elapses (R109). -/
  | settle
  /-- The data phase of a split read (R31). -/
  | readData (reg : ResultReg) (received : Nat)
  /-- The block sends the command word of the CFG in flight; it is built, never decoded (R52). -/
  | send (ch : ChannelSet) (t nd : Bool)
  /-- Something is decoded: a pair of the read in flight, or the host's next request. -/
  | fetch (f : Fetched)
deriving DecidableEq, Repr

/-- The operation in flight goes on before anything else, because a reset never falls inside it (R106)
and a second request is held (R113). -/
def transferEvent : Transfer → Event
  | .command _ ch t nd => .send ch t nd
  | .awaitData reg received => .readData reg received
  | .voltages _ pair _ _ => .fetch (.voltagePair pair.1 pair.2)
  | .temperature hi lo => .fetch (.temperaturePair hi lo)

/-- While SETTLING only a reset or the settle event can happen (R106, R109, R113). -/
def settlingEvent : List Stimulus → Event
  | .reset :: _ => .reset
  | _ => .settle

/-- Between requests the host's next stimulus is taken. -/
def hostEvent : List Stimulus → Event
  | [] => .idle
  | .request r :: _ => .fetch (.request r)
  | .reset :: _ => .reset
  | .resetBetweenRequests :: _ => .reset

/-- The event of the next step. -/
def nextEvent (s : State) : Event :=
  match s.transfer with
  | some tr => transferEvent tr
  | none =>
    if s.phase = .settling then settlingEvent s.pending else hostEvent s.pending

/-- The host's stimulus is taken: the one at the head of its list. -/
def takeStimulus (s : State) : State := { s with pending := s.pending.tail }

/-- The fetched thing is taken from where it stood: a request from the host's list.  A pair stays in
flight until its instruction has run. -/
def advance : Fetched → State → State
  | .request _, s => takeStimulus s
  | .command _, s => s
  | .voltagePair _ _, s => s
  | .temperaturePair _ _, s => s

/-- The state in which nothing stands before the host's next request: nothing in flight, and a CFG that
was SETTLING settled. -/
def readyForRequest (s : State) : State :=
  if s.phase = .settling then { s with transfer := none, phase := .ready, timer := none }
  else { s with transfer := none }

/-- Put a fetched thing where `step` takes its next one from: a request at the head of the host's list,
a command word or a pair in the operation in flight (log 20). -/
def placeFetched (f : Fetched) (s : State) : State :=
  match f with
  | .request r => { readyForRequest s with pending := .request r :: s.pending }
  | .command w =>
    { s with
      transfer := some (.command s.devAddr (commandFields w).1 (commandFields w).2.1
        (commandFields w).2.2) }
  | .voltagePair hi lo => { s with transfer := some (.voltages 0 (hi, lo) [] []) }
  | .temperaturePair hi lo => { s with transfer := some (.temperature hi lo) }

end Sys2Proof.Machine
end

