-- ==== Sys2Proof/Machine/Step.lean ====
section
/-! DEFINITION. One step of the machine. -/

namespace Sys2Proof.Machine

/-- One step: the next event, and for a fetched thing its decoding and its meaning.  What the decoder
rejects is answered with an error response, as the spec says (R44, R80, R93). -/
def step (s : State) : Host.Outcome State Fault Refusal :=
  match nextEvent s with
  | .idle => .next s
  | .reset => .next (resetBlock (takeStimulus s))
  | .settle => .next (settleElapsed s)
  | .readData reg received => .next (readDataPhase reg received s)
  | .send ch t nd => exec (.cmdword ch t nd) s
  | .fetch f =>
    match decode f with
    | .instr i => exec i (advance f s)
    | .reject r => .next (answerReject r (advance f s))

/-- `s` with a word of the opcode table where `step` takes its next instruction from (log 4, log 20). -/
def State.withFetchWord (s : State) (nbits w : Nat) : State :=
  match fetchedOfTableWord nbits w with
  | some f => placeFetched f s
  | none => s

end Sys2Proof.Machine
end

