-- ==== Sys2Proof/Machine/Transcriber.lean ====
section
/-! DEFINITION. The assembler lines that spell requests (30_encoding.md R46, D18).  A transcriber stands
between the text and the block; `step` does not use it. -/

namespace Sys2Proof.Machine

/-- A line of the request syntax, its values not yet checked (R46). -/
inductive Line where
  | cfg (channels : List Nat) (t nd : Bool) (addr : Option Nat)
  | rdv
  | rdt
  | cfgw (w : Nat) (addr : Option Nat)
deriving DecidableEq, Repr

/-- An address operand: omitted, or a 7-bit value (R46); `none` when it is wider. -/
def addrOperand : Option Nat → Option (Option DevAddr)
  | none => some none
  | some a => if a < 128 then some (some (BitVec.ofNat 7 a)) else none

/-- The flags of a list of channel indices. -/
def channelsOf (indices : List Nat) : ChannelSet := Vector.ofFn fun i => indices.contains i.val

/-- A line's request, or `none` when the transcriber refuses the line: an index above 7 or given twice,
an address wider than 7 bits, or a CFGW word with a reserved bit set (R46). -/
def transcribe : Line → Option Request
  | .cfg channels t nd addr =>
    if channels.all (· < nch) && decide channels.Nodup then
      (addrOperand addr).map fun a => ⟨opCfg, channelsOf channels, t, nd, a⟩
    else none
  | .rdv => some (Request.bare opRdv)
  | .rdt => some (Request.bare opRdt)
  | .cfgw w addr =>
    if w < 65536 ∧ BitVec.ofNat 16 w &&& reservedCommandMask = 0#16 then
      (addrOperand addr).map fun a =>
        ⟨opCfg, (commandFields (BitVec.ofNat 16 w)).1, (commandFields (BitVec.ofNat 16 w)).2.1,
          (commandFields (BitVec.ofNat 16 w)).2.2, a⟩
    else none

/-- A token: a run of letters and digits, or one other character (log 17). -/
inductive Token where
  | word (cs : List Char)
  | mark (c : Char)
deriving DecidableEq, Repr

/-- Close a run of letters and digits, kept in reverse. -/
def closeRun (run : List Char) (rest : List Token) : List Token :=
  if run.isEmpty then rest else .word run.reverse :: rest

/-- The tokens of a line: spaces and tabs separate, and a semicolon starts a comment (log 17). -/
def tokens : List Char → List Char → List Token
  | [], run => closeRun run []
  | c :: cs, run =>
    if c.isAlphanum then tokens cs (c :: run)
    else if c = ';' then closeRun run []
    else if c = ' ' || c = '\t' then closeRun run (tokens cs [])
    else closeRun run (.mark c :: tokens cs [])

/-- The value of a digit in bases up to 16, capital or small letters (log 17). -/
def digitValue (c : Char) : Option Nat :=
  if c.isDigit then some (c.toNat - '0'.toNat)
  else if 'a' ≤ c ∧ c ≤ 'f' then some (c.toNat - 'a'.toNat + 10)
  else if 'A' ≤ c ∧ c ≤ 'F' then some (c.toNat - 'A'.toNat + 10)
  else none

/-- Read digits onto a value. -/
def readDigits (base : Nat) : List Char → Nat → Option Nat
  | [], v => some v
  | c :: cs, v =>
    match digitValue c with
    | some d => if d < base then readDigits base cs (v * base + d) else none
    | none => none

/-- A decimal number with at least one digit. -/
def readDec (cs : List Char) : Option Nat := if cs.isEmpty then none else readDigits 10 cs 0

/-- A hexadecimal literal, written `0x..` (R10). -/
def readHex : List Char → Option Nat
  | '0' :: 'x' :: d :: ds => readDigits 16 (d :: ds) 0
  | _ => none

/-- A one-bit operand: `0` or `1` (R46). -/
def readBit : List Char → Option Bool
  | ['0'] => some false
  | ['1'] => some true
  | _ => none

/-- The opening brace of a channel list, by its code point. -/
def openBrace : Char := Char.ofNat 0x7B
/-- The closing brace of a channel list, by its code point. -/
def closeBrace : Char := Char.ofNat 0x7D

/-- The indices of a channel list after its first, up to the closing brace; the rest of the line. -/
def readMoreIndices : List Token → List Nat → Option (List Nat × List Token)
  | .mark c :: .word cs :: rest, acc =>
    if c = ',' then
      match readDec cs with
      | some i => readMoreIndices rest (acc ++ [i])
      | none => none
    else if c = closeBrace then some (acc, .word cs :: rest)
    else none
  | .mark c :: rest, acc => if c = closeBrace then some (acc, rest) else none
  | _, _ => none

/-- The indices of a channel list after its opening brace (R46): none before the closing brace, or a
first one and then those after a comma each. -/
def readIndices : List Token → Option (List Nat × List Token)
  | .word cs :: rest =>
    match readDec cs with
    | some i => readMoreIndices rest [i]
    | none => none
  | .mark c :: rest => if c = closeBrace then some ([], rest) else none
  | [] => none

/-- The tokens of a channel list after its first index: a comma before each further one, then the
closing brace (R46). -/
def listTailTokens : List (List Char) → List Token
  | [] => [.mark closeBrace]
  | w :: ws => .mark ',' :: .word w :: listTailTokens ws

/-- The tokens of a channel list after its opening brace, as R46 writes it: `i, j, ...` and the closing
brace, or the closing brace alone. -/
def listTokens : List (List Char) → List Token
  | [] => [.mark closeBrace]
  | w :: ws => .word w :: listTailTokens ws

/-- The end of a CFG or CFGW line: nothing, or an address operand (R46). -/
def readAddr : List Token → Option (Option Nat)
  | [] => some none
  | [.mark c, .word key, .mark e, .word value] =>
    if c = ',' ∧ key = ['a', 'd', 'd', 'r'] ∧ e = '=' then (readHex value).map some else none
  | _ => none

/-- The operands of a CFG line after its channel list (R46). -/
def readCfgTail (channels : List Nat) : List Token → Option Line
  | .mark c1 :: .word k1 :: .mark e1 :: .word v1 ::
      .mark c2 :: .word k2 :: .mark e2 :: .word v2 :: rest =>
    if c1 = ',' ∧ k1 = ['t'] ∧ e1 = '=' ∧ c2 = ',' ∧ k2 = ['n', 'd'] ∧ e2 = '=' then
      match readBit v1, readBit v2, readAddr rest with
      | some t, some nd, some addr => some (.cfg channels t nd addr)
      | _, _, _ => none
    else none
  | _ => none

/-- A line from its tokens: one of the four forms of R46, else no request.  R46 does not say in which
base CFGW's word is written; the model takes a `0x..` literal only (DESIGN CHOICE, log 17). -/
def readLine : List Token → Option Line
  | [.word ['R', 'D', 'V']] => some .rdv
  | [.word ['R', 'D', 'T']] => some .rdt
  | .word ['C', 'F', 'G', 'W'] :: .word w :: rest =>
    match readHex w, readAddr rest with
    | some w, some addr => some (.cfgw w addr)
    | _, _ => none
  | .word ['C', 'F', 'G'] :: .word ['c', 'h'] :: .mark e :: .mark b :: rest =>
    if e = '=' ∧ b = openBrace then
      match readIndices rest with
      | some (channels, rest') => readCfgTail channels rest'
      | none => none
    else none
  | _ => none

/-- The request a line of text spells, or `none` when the transcriber refuses it (R46). -/
def assemble (text : List Char) : Option Request :=
  match readLine (tokens text []) with
  | some line => transcribe line
  | none => none

end Sys2Proof.Machine
end

