-- ==== Sys2Proof/Safety.lean ====
section
/-! DEFINITION. What claims about the machine are stated in: the invariant of a run, the end of a run,
and the results of the two reads as R71 and R78 give them. -/

namespace Sys2Proof.Machine

/-- What an operation in flight says about the rest of the state: a CFG is in flight before the block
is configured (R64), a read only in READY (R91), a burst is at pair `index` of `N` with one sample for
each pair before it (R71, R74), and a temperature read has passed its gate (R79). -/
def transferOk (s : State) : Option Transfer → Prop
  | none => True
  | some (.command _ _ _ _) => s.phase = .unconfigured
  | some (.awaitData .voltage received) =>
    s.phase = .ready ∧ received = 2 * popcount8 s.chanEn ∧ 0 < popcount8 s.chanEn
  | some (.awaitData .temperature received) => s.phase = .ready ∧ received = 2 ∧ s.tempEn = true
  | some (.voltages index _ rest out) =>
    s.phase = .ready ∧ out.length = index ∧ index + 1 + rest.length = popcount8 s.chanEn
  | some (.temperature _ _) => s.phase = .ready ∧ s.tempEn = true

/-- The settle timer runs exactly while SETTLING (R26, R100), for at least 100 ms (R66). -/
def timerOk (s : State) : Prop :=
  (s.phase = .settling ↔ s.timer.isSome = true) ∧ ∀ d, s.timer = some d → 100 ≤ d

/-- A state that a run with legal parameters can be in. -/
structure Inv (s : State) : Prop where
  params : s.params.legal = true
  timer : timerOk s
  transfer : transferOk s s.transfer

/-- The block's record `S` of R14, the part of the state that no read changes. -/
structure BlockRecord where
  phase : Phase
  chanEn : ChannelSet
  tempEn : Bool
  ndEn : Bool
  devAddr : DevAddr
deriving DecidableEq, Repr

/-- The record `S` of a state (R14). -/
def State.record (s : State) : BlockRecord := ⟨s.phase, s.chanEn, s.tempEn, s.ndEn, s.devAddr⟩

/-- The end of a run: the host presents nothing more, every request has responded and the phase is not
SETTLING (R115).  A CFG that a reset cancelled never responds (R106) and is waited for no longer, so
such a run is over too (DESIGN CHOICE, log 22). -/
def RunOver (s : State) : Prop := s.pending = [] ∧ s.transfer = none ∧ s.phase ≠ .settling

/-- The host can act: nothing is in flight and no CFG is SETTLING (R38). -/
def Quiet (s : State) : Prop := s.transfer = none ∧ s.phase ≠ .settling

/-- The tag of the pair at an index of a burst (R57). -/
def tagAt (pairs : List (Byte × Byte)) (k : Nat) : Tag := pairTag (pairs.getD k (0, 0)).1

/-- The sample a valid pair stands for (R57, R76). -/
def sampleOf (p : Byte × Byte) : Sample :=
  ⟨⟨(pairTag p.1).toNat % 8, Nat.mod_lt _ (by decide)⟩, pairRaw p.1 p.2⟩

/-- What RDV answers to a whole burst: DecodeError at the lowest pair whose tag is above 7 (R74), else
one sample for each pair in receive order (R76).  It is written from those rules and not from the
machine's steps. -/
def burstResponse (pairs : List (Byte × Byte)) : Response :=
  match pairs.findIdx? fun p => decide (7 < (pairTag p.1).toNat) with
  | some k => .error (.decode regVolt k (tagAt pairs k))
  | none => .voltages (pairs.map sampleOf)

/-- What RDT answers to its pair: DecodeError unless the tag is 8 (R80), else `(q, celsius)` (R81, R82). -/
def temperatureResponse (repr : CelsiusRepr) (hi lo : Byte) : Response :=
  if pairTag hi = tempTag then
    .temperature (sext12 (pairRaw hi lo)) (celsiusOf repr (sext12 (pairRaw hi lo)))
  else .error (.decode regTemp 0 (pairTag hi))

/-- BusRead as one operation (R31): how it ends, and the state with its transactions issued. -/
def busReadWhole (reg : ResultReg) (received : Nat) (s : State) : BusResult × State :=
  if s.params.combinedRead then
    (busResult received s, issue (.read s.devAddr reg.address received) s)
  else
    match busResult 0 s with
    | .error e => (.error e, issue (.write s.devAddr [reg.address]) s)
    | .ok _ =>
      (busResult received (issue (.write s.devAddr [reg.address]) s),
        issue (.readData s.devAddr received) (issue (.write s.devAddr [reg.address]) s))

/-- RDV as the one operation of R71's pseudocode. -/
def rdvWhole (s : State) : State :=
  if s.phase ≠ .ready then raise .notConfigured s
  else if popcount8 s.chanEn = 0 then respond (.voltages []) s
  else
    match busReadWhole .voltage (2 * popcount8 s.chanEn) s with
    | (.error e, s1) => raise (.transport e) s1
    | (.ok bytes, s1) => respond (burstResponse (pairsOf bytes)) s1

/-- RDT as the one operation of R78's pseudocode. -/
def rdtWhole (s : State) : State :=
  if s.phase ≠ .ready then raise .notConfigured s
  else if s.tempEn = false then raise (.configuration tempNotEnabledMessage) s
  else
    match busReadWhole .temperature 2 s with
    | (.error e, s1) => raise (.transport e) s1
    | (.ok bytes, s1) =>
      respond (temperatureResponse s.params.celsiusRepr (bytes.getD 0 0) (bytes.getD 1 0)) s1

/-- CFG as the one operation of R64's pseudocode, its settle wait over. -/
def cfgWhole (ch : ChannelSet) (t nd : Bool) (addr : DevAddr) (s : State) : State :=
  if s.phase ≠ .unconfigured then raise .alreadyConfigured s
  else
    match busResult 0 s with
    | .error e => raise (.transport e) (issue (.write addr (commandFrame ch t nd)) s)
    | .ok _ =>
      respond (.configured (encodeCmd ch t nd))
        { issue (.write addr (commandFrame ch t nd)) s with
          phase := .ready, chanEn := ch, tempEn := t, ndEn := nd, devAddr := addr, timer := none }

end Sys2Proof.Machine
end

