-- ==== Sys2Proof/Certificates/Slice0/Obligations.lean ====
section
/-! DEFINITION. What is stated about the machine, for the provers.  Each docstring names the rule it
formalises; a clause that rests on the model's own choice names its log entry. -/

open Sys2Proof Sys2Proof.Machine

/-! ### Encodings -/

/-- R46, R52, R57 (log 3, log 5): decoding what the encoder writes for a well-formed instruction gives
the instruction back, with every operand; a CFGW's words are those of the CFG it expands to. -/
def Obligations.DecodeOfEncodeIsTheInstruction : Prop :=
  ∀ i : Instr, i.wellFormed = true → decode (encode i) = .instr i.core

/-- R56, R57, R47: no bit of a conversion pair or of a command word is dropped: encoding what was decoded
gives the pair or the word back. -/
def Obligations.EncodeOfDecodeIsTheWord : Prop :=
  (∀ (hi lo : Byte) (i : Instr), decode (.voltagePair hi lo) = .instr i →
    encode i = .voltagePair hi lo) ∧
  (∀ (hi lo : Byte) (i : Instr), decode (.temperaturePair hi lo) = .instr i →
    encode i = .temperaturePair hi lo) ∧
  (∀ (w : Word16) (i : Instr), decode (.command w) = .instr i → encode i = .command w)

/-- R8: the structural constants have exactly the source's values. -/
def Obligations.StructuralConstantsAreThoseOfTheSource : Prop :=
  nch = 8 ∧ sampleBits = 12 ∧ tagBits = 4 ∧ tempTag.toNat = 8 ∧ tempLsb = mkRat 1 4 ∧
  regCmd = 0x00#8 ∧ regVolt = 0x01#8 ∧ regTemp = 0x02#8 ∧ devAddrDefault = 0x2F#7

/-- R43, R47, R56: words written out from the spec's encodings decode to what they stand for. -/
def Obligations.SpecWordsDecodeAsWritten : Prop :=
  decode (.request ⟨0x00#8, #v[true, false, false, true, false, false, false, true], true, false,
    none⟩) =
    .instr (.cfg #v[true, false, false, true, false, false, false, true] true false 0x2F#7) ∧
  decode (.request (Request.bare 0x01#8)) = .instr .rdv ∧
  decode (.request (Request.bare 0x02#8)) = .instr .rdt ∧
  decode (.request (Request.bare 0x03#8)) = .reject (.reservedOp 0x03#8) ∧
  decode (.command 0b1000000010010001#16) =
    .instr (.cmdword #v[true, false, false, true, false, false, false, true] true false) ∧
  decode (.voltagePair 0b00100011#8 0b10101011#8) = .instr (.vsample 2#4 939#12) ∧
  decode (.voltagePair 0b10011111#8 0b00000000#8) = .instr (.vsampleInvalid 9#4 0xF00#12) ∧
  decode (.temperaturePair 0b10000000#8 0b00000101#8) = .instr (.tsample 5#12)

/-- R43, R44: every operation code decodes to exactly one of CFG, RDV, RDT or a reserved code. -/
def Obligations.RequestDecodingIsTotalOnOpCodes : Prop :=
  ∀ r : Request,
    (r.op = 0x00#8 → decode (.request r) = .instr (.cfg r.ch r.t r.nd (r.addr.getD 0x2F#7))) ∧
    (r.op = 0x01#8 → decode (.request r) = .instr .rdv) ∧
    (r.op = 0x02#8 → decode (.request r) = .instr .rdt) ∧
    (3 ≤ r.op.toNat → decode (.request r) = .reject (.reservedOp r.op))

/-- R52: the membership decoder and the low-byte encoder are inverse to each other, on all 256 bytes and
on every ChannelSet, by the bit rule of R52. -/
def Obligations.MembershipAndLowByteAreInverse : Prop :=
  (∀ (b : Byte) (i : Fin 8), (decodeMembership b)[i] = b.getLsbD (7 - i.val)) ∧
  (∀ b : Byte, encodeLow (decodeMembership b) = b) ∧
  (∀ ch : ChannelSet, decodeMembership (encodeLow ch) = ch)

/-- R47, R51: the bits of the command word, field by field, the reserved ones always 0. -/
def Obligations.CommandWordHasTheLayoutOfTheSpec : Prop :=
  ∀ (ch : ChannelSet) (t nd : Bool),
    (encodeCmd ch t nd).getLsbD 15 = t ∧
    (encodeCmd ch t nd).getLsbD 11 = nd ∧
    (∀ i : Fin 8, (encodeCmd ch t nd).getLsbD (7 - i.val) = ch[i]) ∧
    (∀ j, (12 ≤ j ∧ j ≤ 14) ∨ (8 ≤ j ∧ j ≤ 10) → (encodeCmd ch t nd).getLsbD j = false)

/-- R53: the active channel count is the number of 1 bits of the low byte, at most 8. -/
def Obligations.ActiveCountIsOneBitsOfLowByte : Prop :=
  ∀ ch : ChannelSet,
    popcount8 ch = ((List.range 8).filter fun j => (encodeLow ch).getLsbD j).length ∧
    popcount8 ch = ((List.finRange 8).filter fun i => ch[i]).length ∧ popcount8 ch ≤ 8

/-- R57: the two fields of a conversion pair, as numbers. -/
def Obligations.PairFieldsAreTagAndDatum : Prop :=
  ∀ hi lo : Byte,
    (decodePair hi lo).1.toNat = (hi.toNat >>> 4) &&& 0xF ∧
    (decodePair hi lo).2.toNat = ((hi.toNat &&& 0xF) <<< 8) ||| lo.toNat

/-- R81: the 12-bit datum read as a two's-complement integer. -/
def Obligations.TemperatureDatumIsTwosComplement : Prop :=
  ∀ raw : Datum,
    (raw.toNat ≤ 0x7FF → sext12 raw = raw.toNat) ∧
    (0x7FF < raw.toNat → sext12 raw = (raw.toNat : Int) - 0x1000) ∧
    sext12 raw = raw.toInt

/-- R82: in every legal representation the Celsius value is exactly `q × 0.25`. -/
def Obligations.CelsiusValueIsExactQuarter : Prop :=
  ∀ (repr : CelsiusRepr) (raw : Datum), repr.legal = true →
    celsiusValue (celsiusOf repr (sext12 raw)) = (sext12 raw : Rat) * (1 / 4 : Rat)

/-- R82 (log 16): a binary Celsius value is normalised to the significand's width, or is zero. -/
def Obligations.BinaryCelsiusFitsItsSignificand : Prop :=
  ∀ (p : Nat) (raw : Datum), 12 ≤ p → raw ≠ 0#12 →
    ∃ (negative : Bool) (significand : Nat) (exponent : Int),
      celsiusOf (.binary p) (sext12 raw) = .binary p negative significand exponent ∧
      2 ^ (p - 1) ≤ significand ∧ significand < 2 ^ p

/-- R83: `q` takes each of the 4096 values −2048..2047 at exactly one datum. -/
def Obligations.TemperatureRangeIsCoveredOnce : Prop :=
  (∀ raw : Datum, -2048 ≤ sext12 raw ∧ sext12 raw ≤ 2047) ∧
  (∀ q : Int, -2048 ≤ q → q ≤ 2047 → ∃ raw : Datum, sext12 raw = q ∧
    ∀ raw' : Datum, sext12 raw' = q → raw' = raw)

/-- R46: every accepted CFGW builds exactly its word, and CFGW runs as the CFG it expands to. -/
def Obligations.CfgwRunsAsItsExpansion : Prop :=
  ∀ (w : Word16) (addr : DevAddr), (Instr.cfgw w addr).wellFormed = true →
    encodeCmd (commandFields w).1 (commandFields w).2.1 (commandFields w).2.2 = w ∧
    ∀ s : State, exec (.cfgw w addr) s = exec (expandCfgw w addr) s

/-- R46: CFGW is refused exactly when a bit of 14:12 or 10:8 is set. -/
def Obligations.CfgwWithReservedBitIsRefused : Prop :=
  ∀ (w : Word16) (addr : DevAddr) (s : State),
    ((∃ j, ((12 ≤ j ∧ j ≤ 14) ∨ (8 ≤ j ∧ j ≤ 10)) ∧ w.getLsbD j = true) ↔
      exec (.cfgw w addr) s = .refused (.transcriberRefused w))

/-- R46: an accepted CFGW line spells a CFG request whose command word is the line's word. -/
def Obligations.TranscribedCfgwBuildsItsWord : Prop :=
  ∀ (w : Nat) (addr : Option Nat) (r : Request), transcribe (.cfgw w addr) = some r →
    r.op = 0x00#8 ∧ (encodeCmd r.ch r.t r.nd).toNat = w ∧
    r.addr.map BitVec.toNat = addr

/-- R46: a CFG line is accepted exactly when each index is 0..7 and given once and the address has 7
bits, and its request has exactly those channels. -/
def Obligations.TranscribedCfgHasItsChannels : Prop :=
  ∀ (channels : List Nat) (t nd : Bool) (addr : Option Nat),
    ((∀ i ∈ channels, i < 8) → channels.Nodup → (∀ a, addr = some a → a < 128) →
      ∃ r, transcribe (.cfg channels t nd addr) = some r ∧ r.op = 0x00#8 ∧
        (∀ i : Fin 8, r.ch[i] = true ↔ i.val ∈ channels) ∧ r.t = t ∧ r.nd = nd ∧
        r.addr.map BitVec.toNat = addr) ∧
    ((¬ channels.Nodup ∨ (∃ i ∈ channels, 8 ≤ i) ∨ ∃ a, addr = some a ∧ 128 ≤ a) →
      transcribe (.cfg channels t nd addr) = none)

/-! ### CFG, CFGW and CMDWORD -/

/-- R64 (its first line), R45: in UNCONFIGURED, CFG with any operands is accepted, and so is a CFGW whose
reserved bits are 0, as the CFG it expands to (R46; the model's reading, log 5).  Nothing but the
operation in flight changes: the command word goes out at the next step (the model's choice, log 1). -/
def Obligations.CfgAcceptedWhenUnconfigured : Prop :=
  ∀ (ch : ChannelSet) (t nd : Bool) (w : Word16) (addr : DevAddr) (s : State),
    s.phase = .unconfigured →
    exec (.cfg ch t nd addr) s = .next { s with transfer := some (.command addr ch t nd) } ∧
    (w &&& 0x7700#16 = 0#16 →
      exec (.cfgw w addr) s =
        .next { s with
          transfer := some (.command addr (decodeMembership (w.extractLsb' 0 8)) (w.getLsbD 15)
            (w.getLsbD 11)) })

/-- R92, R68: in any other phase CFG answers AlreadyConfigured, with no transaction and no change of the
record `S`; so does an accepted CFGW, as the CFG it expands to (R46; the model's reading, log 5). -/
def Obligations.CfgRefusedOnceConfigured : Prop :=
  ∀ (ch : ChannelSet) (t nd : Bool) (w : Word16) (addr : DevAddr) (s : State),
    s.phase ≠ .unconfigured → w &&& 0x7700#16 = 0#16 →
    ∀ i, i = .cfg ch t nd addr ∨ i = .cfgw w addr →
    exec i s =
      .next { s with
        responses := s.responses ++ [.error .alreadyConfigured], k := s.k + 1, transfer := none }

/-- R65, R66, R70: when the command write succeeds, CMDWORD has sent its three bytes in one write,
copied the operands into the state, and started the settle timer; CFG has not responded. -/
def Obligations.CommandWriteLatchesConfiguration : Prop :=
  ∀ (ch : ChannelSet) (t nd : Bool) (dev : DevAddr) (bytes : List Byte) (s : State),
    s.transfer = some (.command dev ch t nd) → busResult 0 s = .ok bytes →
    exec (.cmdword ch t nd) s =
      .next { s with
        chanEn := ch, tempEn := t, ndEn := nd, devAddr := dev
        phase := .settling, timer := some s.params.settleDelayMs, transfer := none
        bus := s.bus ++ [.write dev [0x00#8, encodeHigh t nd, encodeLow ch]]
        answers := s.answers.tail
        draws := if s.answers = [] then s.draws + 1 else s.draws }

/-- R67: a failed command write is answered with the transport's own error; `S` is unchanged, there is
no settle wait and no retry. -/
def Obligations.FailedCommandWriteLeavesStateUnchanged : Prop :=
  ∀ (ch : ChannelSet) (t nd : Bool) (dev : DevAddr) (e : ErrorValue) (s : State),
    s.transfer = some (.command dev ch t nd) → busResult 0 s = .error e →
    ∃ t', exec (.cmdword ch t nd) s = .next t' ∧ t'.record = s.record ∧ t'.timer = s.timer ∧
      t'.responses = s.responses ++ [.error (.transport e)] ∧ t'.k = s.k + 1 ∧
      t'.bus = s.bus ++ [.write dev [0x00#8, encodeHigh t nd, encodeLow ch]] ∧
      t'.transfer = none ∧ t'.pending = s.pending ∧ t'.params = s.params

/-- R66, R69: the settle-elapsed event makes the block READY, and CFG responds with the word of the
configuration it latched; nothing is sent. -/
def Obligations.SettleElapsedAnswersCfg : Prop :=
  ∀ s : State, s.transfer = none → s.phase = .settling → s.pending.head? ≠ some .reset →
    step s =
      .next { s with
        phase := .ready, timer := none, k := s.k + 1
        responses := s.responses ++ [.configured (encodeCmd s.chanEn s.tempEn s.ndEn)] }

/-- R64 as a whole: from any state in which the host can act, a CFG request that no reset interrupts
runs to exactly the state that R64's pseudocode gives, whatever the transport answers.  The bound of
three steps rests on the model's division into steps (log 1) and on the settle event being the next
step (log 11).  CfgCutByResetNeverResponds has the CFG that a reset does interrupt. -/
def Obligations.CfgRunsToItsPseudocode : Prop :=
  ∀ (r : Request) (rest : List Stimulus) (s : State),
    Quiet s → s.pending = .request r :: rest → r.op = 0x00#8 → rest.head? ≠ some .reset →
    ∃ n, n ≤ 3 ∧
      Host.Core.run core n s =
        .next (cfgWhole r.ch r.t r.nd (r.addr.getD 0x2F#7) { s with pending := rest })

/-! ### RDV, VSAMPLE and VSAMPLE_INVALID -/

/-- R91: RDV and RDT outside READY are answered NotConfigured, with no transaction and no change of
state, whatever tempEn and the channel set are (R94). -/
def Obligations.ReadsOutsideReadyAreNotConfigured : Prop :=
  ∀ s : State, s.phase ≠ .ready → ∀ i, i = .rdv ∨ i = .rdt →
    exec i s =
      .next { s with
        responses := s.responses ++ [.error .notConfigured], k := s.k + 1, transfer := none }

/-- R72: with no enabled channel RDV responds `(OK, [])` and issues no transaction. -/
def Obligations.RdvWithNoChannelIssuesNothing : Prop :=
  ∀ s : State, s.phase = .ready → (∀ i : Fin 8, s.chanEn[i] = false) →
    exec .rdv s =
      .next { s with responses := s.responses ++ [.voltages []], k := s.k + 1, transfer := none }

/-- R77, R71, R31, R35: with `N > 0` and a combined read RDV issues one read of `2*N` bytes from
register 0x01, and when it succeeds the burst of `N` pairs is in flight. -/
def Obligations.RdvReadsTwoBytesPerChannel : Prop :=
  ∀ (bytes : List Byte) (s : State), s.phase = .ready → 0 < popcount8 s.chanEn →
    s.params.combinedRead = true → busResult (2 * popcount8 s.chanEn) s = .ok bytes →
    ∃ pair rest, pairsOf bytes = pair :: rest ∧ rest.length + 1 = popcount8 s.chanEn ∧
      exec .rdv s =
        .next { s with
          bus := s.bus ++ [.read s.devAddr 0x01#8 (2 * popcount8 s.chanEn)]
          answers := s.answers.tail
          draws := if s.answers = [] then s.draws + 1 else s.draws
          transfer := some (.voltages 0 pair rest []) }

/-- R88: a read that fails, of either register and in either phase, is answered with the transport's
own error, and no further transaction is issued for it. -/
def Obligations.FailedReadIsTransportError : Prop :=
  ∀ (e : ErrorValue) (s : State), s.phase = .ready →
    (0 < popcount8 s.chanEn →
      busResult (if s.params.combinedRead then 2 * popcount8 s.chanEn else 0) s = .error e →
      ∃ t, exec .rdv s = .next t ∧ t.responses = s.responses ++ [.error (.transport e)] ∧
        t.k = s.k + 1 ∧ t.record = s.record ∧ t.transfer = none ∧
        t.bus = s.bus ++ [if s.params.combinedRead then
          .read s.devAddr 0x01#8 (2 * popcount8 s.chanEn) else .write s.devAddr [0x01#8]]) ∧
    (s.tempEn = true →
      busResult (if s.params.combinedRead then 2 else 0) s = .error e →
      ∃ t, exec .rdt s = .next t ∧ t.responses = s.responses ++ [.error (.transport e)] ∧
        t.k = s.k + 1 ∧ t.record = s.record ∧ t.transfer = none ∧
        t.bus = s.bus ++ [if s.params.combinedRead then
          .read s.devAddr 0x02#8 2 else .write s.devAddr [0x02#8]])

/-- R31 (its second form): with a split read the first transaction writes the register byte alone, and
the second, which the next step issues, reads the bytes; both reads have this form. -/
def Obligations.SplitReadIsTwoTransactions : Prop :=
  ∀ (sent bytes : List Byte) (s : State), s.phase = .ready → s.params.combinedRead = false →
    busResult 0 s = .ok sent →
    (0 < popcount8 s.chanEn →
      ∃ t, exec .rdv s = .next t ∧ t.bus = s.bus ++ [.write s.devAddr [0x01#8]] ∧
        (busResult (2 * popcount8 s.chanEn) t = .ok bytes →
          ∃ u pair rest, step t = .next u ∧ pairsOf bytes = pair :: rest ∧
            u.bus = t.bus ++ [.readData s.devAddr (2 * popcount8 s.chanEn)] ∧
            u.transfer = some (.voltages 0 pair rest []))) ∧
    (s.tempEn = true →
      ∃ t, exec .rdt s = .next t ∧ t.bus = s.bus ++ [.write s.devAddr [0x02#8]] ∧
        (busResult 2 t = .ok bytes →
          ∃ u, step t = .next u ∧ u.bus = t.bus ++ [.readData s.devAddr 2] ∧
            u.transfer = some (.temperature (bytes.getD 0 0) (bytes.getD 1 0))))

/-- R73, R75, R76: a pair with a tag 0..7 becomes the sample of its own tag and datum, in receive order,
whatever the enabled channels are; the last pair's step answers with all samples.  VSAMPLE and
VSAMPLE_INVALID differ only in the tags their rows admit, so the clause names both. -/
def Obligations.VoltagePairBecomesSample : Prop :=
  ∀ (tag : Tag) (raw : Datum) (index : Nat) (pair : Byte × Byte) (rest : List (Byte × Byte))
    (out : List Sample) (s : State) (h : tag.toNat < 8),
    s.transfer = some (.voltages index pair rest out) →
    ∀ i, i = .vsample tag raw ∨ i = .vsampleInvalid tag raw →
    (rest = [] →
      exec i s =
        .next { s with
          responses := s.responses ++ [.voltages (out ++ [⟨⟨tag.toNat, h⟩, raw⟩])]
          k := s.k + 1, transfer := none }) ∧
    (∀ next rest', rest = next :: rest' →
      exec i s =
        .next { s with
          transfer := some (.voltages (index + 1) next rest' (out ++ [⟨⟨tag.toNat, h⟩, raw⟩])) })

/-- R74 and R97, at the pair at hand: a pair with a tag above 7 ends the read with DecodeError at its
index, and no sample is returned. -/
def Obligations.InvalidVoltagePairFailsWholeRead : Prop :=
  ∀ (tag : Tag) (raw : Datum) (index : Nat) (pair : Byte × Byte) (rest : List (Byte × Byte))
    (out : List Sample) (s : State), 7 < tag.toNat →
    s.transfer = some (.voltages index pair rest out) →
    ∀ i, i = .vsample tag raw ∨ i = .vsampleInvalid tag raw →
    exec i s =
      .next { s with
        responses := s.responses ++ [.error (.decode 0x01#8 index tag)]
        k := s.k + 1, transfer := none }

/-- R71 as a whole (with R72 to R77, R31, R91, R94, R97): from any state in which the host can act, an
RDV request runs to exactly the state that R71's pseudocode gives, for every answer of the transport
and for a combined or a split read.  The burst's result is stated apart from the machine's steps:
DecodeError at the lowest bad pair, else one sample for each pair.  The bound of ten steps rests on
the model's division into steps (log 1). -/
def Obligations.RdvRunsToItsPseudocode : Prop :=
  ∀ (r : Request) (rest : List Stimulus) (s : State),
    Quiet s → s.pending = .request r :: rest → r.op = 0x01#8 →
    ∃ n, n ≤ 10 ∧ Host.Core.run core n s = .next (rdvWhole { s with pending := rest })

/-! ### RDT and TSAMPLE -/

/-- R79: with temperature disabled RDT answers ConfigurationError and issues no transaction. -/
def Obligations.RdtWithoutTemperatureIsConfigurationError : Prop :=
  ∀ s : State, s.phase = .ready → s.tempEn = false →
    exec .rdt s =
      .next { s with
        responses := s.responses ++ [.error (.configuration "temperature sensor not enabled")]
        k := s.k + 1, transfer := none }

/-- R85, R78, R35: an RDT that passes its gate, with a combined read, issues one read of 2 bytes from
register 0x02, and when it succeeds its pair is in flight. -/
def Obligations.RdtReadsTwoBytes : Prop :=
  ∀ (bytes : List Byte) (s : State), s.phase = .ready → s.tempEn = true →
    s.params.combinedRead = true → busResult 2 s = .ok bytes →
    ∃ hi lo, bytes = [hi, lo] ∧
      exec .rdt s =
        .next { s with
          bus := s.bus ++ [.read s.devAddr 0x02#8 2]
          answers := s.answers.tail
          draws := if s.answers = [] then s.draws + 1 else s.draws
          transfer := some (.temperature hi lo) }

/-- From R81 and R82: TSAMPLE answers with `q`, the datum read as two's complement, and a Celsius value
that is exactly `q/4`.  The representation it is in is that of RdtRunsToItsPseudocode. -/
def Obligations.TemperaturePairIsAnswered : Prop :=
  ∀ (raw : Datum) (hi lo : Byte) (s : State), s.transfer = some (.temperature hi lo) →
    ∃ c, exec (.tsample raw) s =
        .next { s with
          responses := s.responses ++ [.temperature raw.toInt c], k := s.k + 1, transfer := none } ∧
      (s.params.legal = true → celsiusValue c = (raw.toInt : Rat) * (1 / 4 : Rat))

/-- R80: a pair from register 0x02 with any other tag is answered DecodeError at pair 0. -/
def Obligations.WrongTemperatureTagIsDecodeError : Prop :=
  ∀ (hi lo : Byte) (s : State), s.transfer = some (.temperature hi lo) →
    hi.toNat / 16 ≠ 8 →
    step s =
      .next { s with
        responses := s.responses ++ [.error (.decode 0x02#8 0 (hi.extractLsb' 4 4))]
        k := s.k + 1, transfer := none }

/-- R78 as a whole (with R79 to R82, R85, R91, R94): an RDT request runs to exactly the state that R78's
pseudocode gives, for every answer of the transport and for a combined or a split read.  The bound of
three steps rests on the model's division into steps (log 1). -/
def Obligations.RdtRunsToItsPseudocode : Prop :=
  ∀ (r : Request) (rest : List Stimulus) (s : State),
    Quiet s → s.pending = .request r :: rest → r.op = 0x02#8 →
    ∃ n, n ≤ 3 ∧ Host.Core.run core n s = .next (rdtWhole { s with pending := rest })

/-- R84: RDT and TSAMPLE read neither the channel set nor the noise-delay bit: changing them changes
nothing else of the outcome. -/
def Obligations.TemperatureReadIgnoresChannels : Prop :=
  ∀ (ch : ChannelSet) (nd : Bool) (raw : Datum) (i : Instr) (s t : State),
    i = .rdt ∨ i = .tsample raw → exec i s = .next t →
    exec i { s with chanEn := ch, ndEn := nd } = .next { t with chanEn := ch, ndEn := nd }

/-! ### Errors, frames and rules of the whole machine -/

/-- R93: a reserved code is answered IllegalOp in every phase the host can act in, with no transaction
and no change of the record `S`. -/
def Obligations.ReservedOpCodeIsIllegalOp : Prop :=
  ∀ (r : Request) (rest : List Stimulus) (s : State),
    Quiet s → s.pending = .request r :: rest → 3 ≤ r.op.toNat →
    step s =
      .next { s with
        pending := rest, responses := s.responses ++ [.error (.illegalOp r.op)], k := s.k + 1 }

/-- R87: the numeric status of each class. -/
def Obligations.StatusCodesAreThoseOfTheTable : Prop :=
  ∀ (w : Word16) (samples : List Sample) (q : Int) (c : Celsius) (e : ErrorValue) (m : String)
    (reg : Byte) (pair : Nat) (tag : Tag) (op : Byte),
    (Response.configured w).status = 0 ∧ (Response.voltages samples).status = 0 ∧
    (Response.temperature q c).status = 0 ∧ (Response.error (.transport e)).status = 1 ∧
    (Response.error (.configuration m)).status = 2 ∧
    (Response.error (.decode reg pair tag)).status = 3 ∧
    (Response.error .notConfigured).status = 4 ∧
    (Response.error .alreadyConfigured).status = 5 ∧
    (Response.error (.illegalOp op)).status = 6

/-- Frame of the reads (R71, R78: they write no state of `S`): RDV, VSAMPLE, VSAMPLE_INVALID, RDT and
TSAMPLE leave the record, the settle timer, the parameters and the host's list unchanged; the three
pair instructions also leave the bus and the transport's answers unchanged. -/
def Obligations.ReadsLeaveTheRecordUnchanged : Prop :=
  ∀ (i : Instr) (s t : State), exec i s = .next t →
    (i = .rdv ∨ i = .rdt ∨ (∃ tag raw, i = .vsample tag raw) ∨
      (∃ tag raw, i = .vsampleInvalid tag raw) ∨ ∃ raw, i = .tsample raw) →
    t.record = s.record ∧ t.timer = s.timer ∧ t.params = s.params ∧ t.pending = s.pending ∧
    (i ≠ .rdv → i ≠ .rdt → t.bus = s.bus ∧ t.answers = s.answers ∧ t.draws = s.draws)

/-- Frame of the configuring instructions' own steps, as the model divides CFG (its choice, log 1): the
step of CFG, and of a CFGW as the CFG it expands to (R46; the model's reading, log 5), changes no field
of the record, the timer, the bus or the answers; what R64 and R65 have CFG write to `S` is written by
its later steps.  CMDWORD's step ends the operation in flight, and either leaves the record
and the timer with `k` one further, or enters SETTLING with no response; none changes the parameters
or the host's list.  Which of the two CMDWORD does is in CommandWriteLatchesConfiguration and
FailedCommandWriteLeavesStateUnchanged. -/
def Obligations.ConfigureFrame : Prop :=
  ∀ (i : Instr) (s t : State), exec i s = .next t →
    ((∃ ch te nd addr, i = .cfg ch te nd addr) ∨ (∃ w addr, i = .cfgw w addr) →
      t.record = s.record ∧ t.timer = s.timer ∧ t.params = s.params ∧ t.pending = s.pending ∧
      t.bus = s.bus ∧ t.answers = s.answers ∧ t.draws = s.draws) ∧
    ((∃ ch te nd, i = .cmdword ch te nd) →
      t.params = s.params ∧ t.pending = s.pending ∧ t.transfer = none ∧
      (t.record = s.record ∧ t.timer = s.timer ∧ t.k = s.k + 1 ∨
        t.phase = .settling ∧ t.responses = s.responses ∧ t.k = s.k))

/-- Tier 1: when the next event fetches something that decodes to an instruction, the step is `exec` of
that instruction, after the request (if it is one) is taken from the host's list; and while a CFG is
in flight the step is `exec` of its CMDWORD, whose encoding decodes to it (R52, log 2). -/
def Obligations.StepRunsTheDecodedInstruction : Prop :=
  (∀ (f : Fetched) (i : Instr) (s : State), nextEvent s = .fetch f → decode f = .instr i →
    step s = exec i (advance f s)) ∧
  (∀ (dev : DevAddr) (ch : ChannelSet) (t nd : Bool) (s : State),
    s.transfer = some (.command dev ch t nd) → step s = exec (.cmdword ch t nd) s) ∧
  (∀ (r : Request) (rest : List Stimulus) (s : State), Quiet s → s.pending = .request r :: rest →
    nextEvent s = .fetch (.request r) ∧
      advance (.request r) s = { s with pending := rest }) ∧
  (∀ (index : Nat) (pair : Byte × Byte) (rest : List (Byte × Byte)) (out : List Sample) (s : State),
    s.transfer = some (.voltages index pair rest out) →
      nextEvent s = .fetch (.voltagePair pair.1 pair.2) ∧
        advance (.voltagePair pair.1 pair.2) s = s) ∧
  (∀ (hi lo : Byte) (s : State), s.transfer = some (.temperature hi lo) →
    nextEvent s = .fetch (.temperaturePair hi lo) ∧ advance (.temperaturePair hi lo) s = s)

/-- A word of the opcode table placed for the machine is what its next step runs (log 4, log 20). -/
def Obligations.PlacedTableWordRunsNext : Prop :=
  ∀ (nbits w : Nat) (i : Instr) (s : State), decodeTableWord nbits w = some i →
    ∃ s', step (s.withFetchWord nbits w) = exec i s' ∧
      s'.chanEn = s.chanEn ∧ s'.tempEn = s.tempEn ∧ s'.ndEn = s.ndEn ∧ s'.devAddr = s.devAddr ∧
      s'.k = s.k ∧ s'.params = s.params ∧ s'.pending = s.pending ∧ s'.answers = s.answers ∧
      s'.responses = s.responses ∧ s'.bus = s.bus ∧
      (s.phase ≠ .settling → s'.phase = s.phase ∧ s'.timer = s.timer)

/-- R104: the block's fields after reset. -/
def Obligations.ResetStateIsThatOfTheSpec : Prop :=
  State.reset.phase = .unconfigured ∧ (∀ i : Fin 8, State.reset.chanEn[i] = false) ∧
  State.reset.tempEn = false ∧ State.reset.ndEn = false ∧ State.reset.devAddr = 0x2F#7 ∧
  State.reset.timer = none ∧ State.reset.k = 0

/-- R104, R105, R106: reset between requests, or while a CFG is SETTLING, gives the fields of R104,
issues no transaction and gives no response; what the host and the transport still hold stays
(log 10). -/
def Obligations.ResetCancelsSettlingWithoutResponse : Prop :=
  ∀ (x : Stimulus) (rest : List Stimulus) (s : State), s.transfer = none → s.pending = x :: rest →
    (x = .reset ∨ (x = .resetBetweenRequests ∧ s.phase ≠ .settling)) →
    step s =
      .next { State.reset with
        params := s.params, pending := rest, answers := s.answers, draws := s.draws
        responses := s.responses, bus := s.bus }

/-- R38, R113: while an operation is in flight or SETTLING no request is accepted: the host's list
keeps its head until the operation has responded, unless a reset is applied. -/
def Obligations.SecondRequestIsHeld : Prop :=
  ∀ (r : Request) (rest : List Stimulus) (s t : State), ¬ Quiet s →
    s.pending = .request r :: rest → step s = .next t → t.pending = s.pending

/-- R23, R96: `k` advances by exactly 1 with each response and in no other way; a step gives at most one
response and takes none back; only reset returns `k` to 0, with no response. -/
def Obligations.RequestIndexCountsResponses : Prop :=
  ∀ s t : State, step s = .next t →
    (t.k = s.k ∧ t.responses = s.responses) ∨
    (t.k = s.k + 1 ∧ ∃ r, t.responses = s.responses ++ [r]) ∨
    (nextEvent s = .reset ∧ t.k = 0 ∧ t.responses = s.responses)

/-- R29, R35, I13: a step issues at most one transaction, and only one of these: the three-byte command
frame of the CFG in flight, a read of register 0x01 or 0x02 in one transaction, the register byte of a
split read, or its data phase. -/
def Obligations.OnlyTheListedTransactionsAreIssued : Prop :=
  ∀ s t : State, Inv s → step s = .next t →
    t.bus = s.bus ∨
    (∃ dev ch te nd, s.transfer = some (.command dev ch te nd) ∧
      t.bus = s.bus ++ [.write dev [0x00#8, encodeHigh te nd, encodeLow ch]]) ∨
    (s.phase = .ready ∧ s.params.combinedRead = true ∧
      ((0 < popcount8 s.chanEn ∧
          t.bus = s.bus ++ [.read s.devAddr 0x01#8 (2 * popcount8 s.chanEn)]) ∨
        (s.tempEn = true ∧ t.bus = s.bus ++ [.read s.devAddr 0x02#8 2]))) ∨
    (s.phase = .ready ∧ s.params.combinedRead = false ∧ s.transfer = none ∧
      ((0 < popcount8 s.chanEn ∧ t.bus = s.bus ++ [.write s.devAddr [0x01#8]]) ∨
        (s.tempEn = true ∧ t.bus = s.bus ++ [.write s.devAddr [0x02#8]]))) ∨
    (s.phase = .ready ∧
      ((s.transfer = some (.awaitData .voltage (2 * popcount8 s.chanEn)) ∧
          t.bus = s.bus ++ [.readData s.devAddr (2 * popcount8 s.chanEn)]) ∨
        (s.transfer = some (.awaitData .temperature 2) ∧
          t.bus = s.bus ++ [.readData s.devAddr 2])))

/-- R65, R16 to R19, R27: once configured, nothing but reset changes the configuration fields. -/
def Obligations.ConfigurationIsImmutable : Prop :=
  ∀ s t : State, Inv s → s.phase ≠ .unconfigured → step s = .next t → nextEvent s ≠ .reset →
    t.chanEn = s.chanEn ∧ t.tempEn = s.tempEn ∧ t.ndEn = s.ndEn ∧ t.devAddr = s.devAddr

/-- R106, R15: the phase goes UNCONFIGURED, SETTLING, READY, and only reset leaves READY or goes back. -/
def Obligations.PhaseOnlyMovesForwardButForReset : Prop :=
  ∀ s t : State, Inv s → step s = .next t → nextEvent s ≠ .reset →
    (s.phase = .ready → t.phase = .ready) ∧
    (s.phase = .settling → t.phase = .ready) ∧
    (s.phase = .unconfigured → t.phase = .unconfigured ∨ t.phase = .settling)

/-- R95, R97: a step whose response is an error leaves the record `S` as it was. -/
def Obligations.ErrorsChangeNoFieldOfTheRecord : Prop :=
  ∀ (s t : State) (e : Error), step s = .next t → t.responses = s.responses ++ [.error e] →
    t.record = s.record ∧ t.timer = s.timer ∧ t.transfer = none ∧ t.k = s.k + 1

/-- R18, C2: but for CFG's command word, no step reads the noise-delay bit. -/
def Obligations.NoiseDelayBitIsReadByNoRead : Prop :=
  ∀ (nd : Bool) (s t : State), nextEvent s ≠ .settle → nextEvent s ≠ .reset →
    (∀ ch te n, nextEvent s ≠ .send ch te n) → step s = .next t →
    step { s with ndEn := nd } = .next { t with ndEn := nd }

/-- The machine never stops: in every state a step answers a next state.  (R86: an error is a response
and then the next request is accepted; a state with nothing to do waits, log 12.) -/
def Obligations.StepAlwaysAnswersNext : Prop := ∀ s : State, ∃ t, step s = .next t

/-- The model's choice (log 18): a word of an operation that is not in flight stops by name. -/
def Obligations.WordWithoutItsOperationStops : Prop :=
  ∀ (ch : ChannelSet) (t nd : Bool) (tag : Tag) (raw : Datum) (s : State), s.transfer = none →
    exec (.cmdword ch t nd) s = .fault .noCommandInFlight ∧
    exec (.vsample tag raw) s = .fault .noVoltageReadInFlight ∧
    exec (.vsampleInvalid tag raw) s = .fault .noVoltageReadInFlight ∧
    exec (.tsample raw) s = .fault .noTemperatureReadInFlight

/-- R115 (log 12): at the end of a run a step changes nothing. -/
def Obligations.RunOverIsStable : Prop := ∀ s : State, RunOver s → step s = .next s

/-- The invariant of a run holds after reset. -/
def Obligations.ResetMeetsTheInvariant : Prop := Inv State.reset

/-- Every step keeps the invariant (R26, R64, R66, R71, R79, R91, R100): the settle timer runs exactly
while SETTLING and for at least 100 ms, a CFG in flight finds the block UNCONFIGURED, a read in flight
finds it READY, and a burst in flight has one sample for each pair before the one at hand and `N` pairs
in all. -/
def Obligations.EveryStepKeepsTheInvariant : Prop :=
  ∀ s t : State, Inv s → step s = .next t → Inv t

/-! ### Added for the review -/

/-- R106, R65, R105: a CFG whose command write succeeds and which is followed by an immediate reset never
responds: the block is in the fields of R104, and the one write stays on the bus.  That this is the
third step rests on the model's division into steps (log 1); what stays is log 10. -/
def Obligations.CfgCutByResetNeverResponds : Prop :=
  ∀ (r : Request) (rest : List Stimulus) (bytes : List Byte) (s : State),
    Quiet s → s.pending = .request r :: .reset :: rest → r.op = 0x00#8 →
    s.phase = .unconfigured → busResult 0 s = .ok bytes →
    Host.Core.run core 3 s =
      .next { State.reset with
        params := s.params, pending := rest, answers := s.answers.tail
        draws := if s.answers = [] then s.draws + 1 else s.draws
        responses := s.responses
        bus := s.bus ++
          [.write (r.addr.getD 0x2F#7) [0x00#8, encodeHigh r.t r.nd, encodeLow r.ch]] }

/-- R46 (the indices' spelling: log 17): a channel list is read exactly when its tokens are indices with
a comma between two of them and the closing brace at the end, and then its indices are theirs in
order. -/
def Obligations.ChannelListIsReadExactlyInItsForm : Prop :=
  ∀ (toks rest : List Token) (indices : List Nat),
    readIndices toks = some (indices, rest) ↔
      ∃ words : List (List Char), toks = listTokens words ++ rest ∧
        words.map readDec = indices.map some
end

