-- ==== Sys2Proof/Laws/Encoding.lean ====
section
/-! SUPPORT. Small lemmas about the channel set and the conversion pair. -/

namespace Sys2Proof.Machine

/-- A property of every ChannelSet is a property of its eight flags. -/
theorem channelSet_cases {P : ChannelSet → Prop}
    (h : ∀ c0 c1 c2 c3 c4 c5 c6 c7 : Bool, P #v[c0, c1, c2, c3, c4, c5, c6, c7]) (ch : ChannelSet) :
    P ch := by
  obtain ⟨⟨l⟩, hl⟩ := ch
  match l, hl with
  | [c0, c1, c2, c3, c4, c5, c6, c7], _ => exact h c0 c1 c2 c3 c4 c5 c6 c7

/-- The tag of a written pair is the tag it was written from (R56, R57). -/
@[simp] theorem pairTag_encodePair (tag : Tag) (raw : Datum) :
    pairTag (encodePair tag raw).1 = tag := by
  apply BitVec.eq_of_getLsbD_eq
  intro i hi
  simp only [pairTag, encodePair, BitVec.getLsbD_extractLsb', BitVec.getLsbD_append]
  simp [hi]

/-- The datum of a written pair is the datum it was written from (R56, R57). -/
@[simp] theorem pairRaw_encodePair (tag : Tag) (raw : Datum) :
    pairRaw (encodePair tag raw).1 (encodePair tag raw).2 = raw := by
  apply BitVec.eq_of_getLsbD_eq
  intro i hi
  simp only [pairRaw, encodePair, BitVec.getLsbD_extractLsb', BitVec.getLsbD_append]
  by_cases h : i < 8
  · simp [h]
  · simp [h, show i - 8 < 4 by omega, show 8 + (i - 8) = i by omega]

end Sys2Proof.Machine
end

