-- ==== Sys2Proof/Laws/State.lean ====
section
/-! SUPPORT. One lemma per field per update of the state, so that no proof unfolds a record update. -/

namespace Sys2Proof.Machine

variable (s : State)

section
variable (r : Response)
@[simp] theorem respond_phase : (respond r s).phase = s.phase := rfl
@[simp] theorem respond_chanEn : (respond r s).chanEn = s.chanEn := rfl
@[simp] theorem respond_tempEn : (respond r s).tempEn = s.tempEn := rfl
@[simp] theorem respond_ndEn : (respond r s).ndEn = s.ndEn := rfl
@[simp] theorem respond_devAddr : (respond r s).devAddr = s.devAddr := rfl
@[simp] theorem respond_timer : (respond r s).timer = s.timer := rfl
@[simp] theorem respond_k : (respond r s).k = s.k + 1 := rfl
@[simp] theorem respond_transfer : (respond r s).transfer = none := rfl
@[simp] theorem respond_params : (respond r s).params = s.params := rfl
@[simp] theorem respond_pending : (respond r s).pending = s.pending := rfl
@[simp] theorem respond_answers : (respond r s).answers = s.answers := rfl
@[simp] theorem respond_draws : (respond r s).draws = s.draws := rfl
@[simp] theorem respond_responses : (respond r s).responses = s.responses ++ [r] := rfl
@[simp] theorem respond_bus : (respond r s).bus = s.bus := rfl
end

section
variable (e : Error)
@[simp] theorem raise_phase : (raise e s).phase = s.phase := rfl
@[simp] theorem raise_chanEn : (raise e s).chanEn = s.chanEn := rfl
@[simp] theorem raise_tempEn : (raise e s).tempEn = s.tempEn := rfl
@[simp] theorem raise_ndEn : (raise e s).ndEn = s.ndEn := rfl
@[simp] theorem raise_devAddr : (raise e s).devAddr = s.devAddr := rfl
@[simp] theorem raise_timer : (raise e s).timer = s.timer := rfl
@[simp] theorem raise_k : (raise e s).k = s.k + 1 := rfl
@[simp] theorem raise_transfer : (raise e s).transfer = none := rfl
@[simp] theorem raise_params : (raise e s).params = s.params := rfl
@[simp] theorem raise_pending : (raise e s).pending = s.pending := rfl
@[simp] theorem raise_answers : (raise e s).answers = s.answers := rfl
@[simp] theorem raise_draws : (raise e s).draws = s.draws := rfl
@[simp] theorem raise_responses : (raise e s).responses = s.responses ++ [.error e] := rfl
@[simp] theorem raise_bus : (raise e s).bus = s.bus := rfl
end

section
variable (tr : Transaction)
@[simp] theorem issue_phase : (issue tr s).phase = s.phase := rfl
@[simp] theorem issue_chanEn : (issue tr s).chanEn = s.chanEn := rfl
@[simp] theorem issue_tempEn : (issue tr s).tempEn = s.tempEn := rfl
@[simp] theorem issue_ndEn : (issue tr s).ndEn = s.ndEn := rfl
@[simp] theorem issue_devAddr : (issue tr s).devAddr = s.devAddr := rfl
@[simp] theorem issue_timer : (issue tr s).timer = s.timer := rfl
@[simp] theorem issue_k : (issue tr s).k = s.k := rfl
@[simp] theorem issue_transfer : (issue tr s).transfer = s.transfer := rfl
@[simp] theorem issue_params : (issue tr s).params = s.params := rfl
@[simp] theorem issue_pending : (issue tr s).pending = s.pending := rfl
@[simp] theorem issue_answers : (issue tr s).answers = s.answers.tail := rfl
@[simp] theorem issue_draws : (issue tr s).draws = if s.answers.isEmpty then s.draws + 1 else s.draws := rfl
@[simp] theorem issue_responses : (issue tr s).responses = s.responses := rfl
@[simp] theorem issue_bus : (issue tr s).bus = s.bus ++ [tr] := rfl
end

section
@[simp] theorem takeStimulus_phase : (takeStimulus s).phase = s.phase := rfl
@[simp] theorem takeStimulus_chanEn : (takeStimulus s).chanEn = s.chanEn := rfl
@[simp] theorem takeStimulus_tempEn : (takeStimulus s).tempEn = s.tempEn := rfl
@[simp] theorem takeStimulus_ndEn : (takeStimulus s).ndEn = s.ndEn := rfl
@[simp] theorem takeStimulus_devAddr : (takeStimulus s).devAddr = s.devAddr := rfl
@[simp] theorem takeStimulus_timer : (takeStimulus s).timer = s.timer := rfl
@[simp] theorem takeStimulus_k : (takeStimulus s).k = s.k := rfl
@[simp] theorem takeStimulus_transfer : (takeStimulus s).transfer = s.transfer := rfl
@[simp] theorem takeStimulus_params : (takeStimulus s).params = s.params := rfl
@[simp] theorem takeStimulus_pending : (takeStimulus s).pending = s.pending.tail := rfl
@[simp] theorem takeStimulus_answers : (takeStimulus s).answers = s.answers := rfl
@[simp] theorem takeStimulus_draws : (takeStimulus s).draws = s.draws := rfl
@[simp] theorem takeStimulus_responses : (takeStimulus s).responses = s.responses := rfl
@[simp] theorem takeStimulus_bus : (takeStimulus s).bus = s.bus := rfl
end

section
variable (ch : ChannelSet) (t nd : Bool) (dev : DevAddr)
@[simp] theorem latchConfiguration_phase : (latchConfiguration ch t nd dev s).phase = .settling := rfl
@[simp] theorem latchConfiguration_chanEn : (latchConfiguration ch t nd dev s).chanEn = ch := rfl
@[simp] theorem latchConfiguration_tempEn : (latchConfiguration ch t nd dev s).tempEn = t := rfl
@[simp] theorem latchConfiguration_ndEn : (latchConfiguration ch t nd dev s).ndEn = nd := rfl
@[simp] theorem latchConfiguration_devAddr : (latchConfiguration ch t nd dev s).devAddr = dev := rfl
@[simp] theorem latchConfiguration_timer : (latchConfiguration ch t nd dev s).timer = some s.params.settleDelayMs := rfl
@[simp] theorem latchConfiguration_k : (latchConfiguration ch t nd dev s).k = s.k := rfl
@[simp] theorem latchConfiguration_transfer : (latchConfiguration ch t nd dev s).transfer = none := rfl
@[simp] theorem latchConfiguration_params : (latchConfiguration ch t nd dev s).params = s.params := rfl
@[simp] theorem latchConfiguration_pending : (latchConfiguration ch t nd dev s).pending = s.pending := rfl
@[simp] theorem latchConfiguration_answers : (latchConfiguration ch t nd dev s).answers = s.answers := rfl
@[simp] theorem latchConfiguration_draws : (latchConfiguration ch t nd dev s).draws = s.draws := rfl
@[simp] theorem latchConfiguration_responses : (latchConfiguration ch t nd dev s).responses = s.responses := rfl
@[simp] theorem latchConfiguration_bus : (latchConfiguration ch t nd dev s).bus = s.bus := rfl
end

section
@[simp] theorem settleElapsed_phase : (settleElapsed s).phase = .ready := rfl
@[simp] theorem settleElapsed_chanEn : (settleElapsed s).chanEn = s.chanEn := rfl
@[simp] theorem settleElapsed_tempEn : (settleElapsed s).tempEn = s.tempEn := rfl
@[simp] theorem settleElapsed_ndEn : (settleElapsed s).ndEn = s.ndEn := rfl
@[simp] theorem settleElapsed_devAddr : (settleElapsed s).devAddr = s.devAddr := rfl
@[simp] theorem settleElapsed_timer : (settleElapsed s).timer = none := rfl
@[simp] theorem settleElapsed_k : (settleElapsed s).k = s.k + 1 := rfl
@[simp] theorem settleElapsed_transfer : (settleElapsed s).transfer = none := rfl
@[simp] theorem settleElapsed_params : (settleElapsed s).params = s.params := rfl
@[simp] theorem settleElapsed_pending : (settleElapsed s).pending = s.pending := rfl
@[simp] theorem settleElapsed_answers : (settleElapsed s).answers = s.answers := rfl
@[simp] theorem settleElapsed_draws : (settleElapsed s).draws = s.draws := rfl
@[simp] theorem settleElapsed_responses : (settleElapsed s).responses = s.responses ++ [.configured (encodeCmd s.chanEn s.tempEn s.ndEn)] := rfl
@[simp] theorem settleElapsed_bus : (settleElapsed s).bus = s.bus := rfl
end

section
@[simp] theorem resetBlock_phase : (resetBlock s).phase = .unconfigured := rfl
@[simp] theorem resetBlock_chanEn : (resetBlock s).chanEn = noChannels := rfl
@[simp] theorem resetBlock_tempEn : (resetBlock s).tempEn = false := rfl
@[simp] theorem resetBlock_ndEn : (resetBlock s).ndEn = false := rfl
@[simp] theorem resetBlock_devAddr : (resetBlock s).devAddr = devAddrDefault := rfl
@[simp] theorem resetBlock_timer : (resetBlock s).timer = none := rfl
@[simp] theorem resetBlock_k : (resetBlock s).k = 0 := rfl
@[simp] theorem resetBlock_transfer : (resetBlock s).transfer = none := rfl
@[simp] theorem resetBlock_params : (resetBlock s).params = s.params := rfl
@[simp] theorem resetBlock_pending : (resetBlock s).pending = s.pending := rfl
@[simp] theorem resetBlock_answers : (resetBlock s).answers = s.answers := rfl
@[simp] theorem resetBlock_draws : (resetBlock s).draws = s.draws := rfl
@[simp] theorem resetBlock_responses : (resetBlock s).responses = s.responses := rfl
@[simp] theorem resetBlock_bus : (resetBlock s).bus = s.bus := rfl
end

end Sys2Proof.Machine
end

