-- ==== Sys2Proof/Laws/Ops.lean ====
section
/-! SUPPORT. One lemma per shared operation, saying once everything it can do, and the events a state
can meet. -/

namespace Sys2Proof.Machine

variable {s : State}

/-- A result with bytes has exactly the bytes that were asked for (R32). -/
theorem busResult_length {received : Nat} {bytes : List Byte}
    (h : busResult received s = .ok bytes) : bytes.length = received := by
  unfold busResult at h
  cases ha : nextAnswer s with
  | error e => simp [ha, judge] at h
  | bytes bs =>
    simp only [ha, judge] at h
    split at h
    · cases h; assumption
    · cases h

/-- A scripted answer with the right byte count is delivered. -/
theorem busResult_bytes {received : Nat} {bs : List Byte} {rest : List Answer}
    (h : s.answers = .bytes bs :: rest) (hl : bs.length = received) :
    busResult received s = .ok bs := by
  simp [busResult, nextAnswer, h, judge, hl]

/-- A scripted error is passed through unchanged (R88). -/
theorem busResult_error {received : Nat} {e : ErrorValue} {rest : List Answer}
    (h : s.answers = .error e :: rest) : busResult received s = .error e := by
  simp [busResult, nextAnswer, h, judge]

/-- How a transaction ends depends on the transport's answers alone (R32). -/
theorem busResult_congr {s s' : State} (n : Nat) (ha : s'.answers = s.answers)
    (hd : s'.draws = s.draws) : busResult n s' = busResult n s := by
  simp [busResult, nextAnswer, ha, hd]

/-- `2*N` bytes are `N` pairs (R34, R61). -/
theorem pairsOf_length : ∀ (n : Nat) (bytes : List Byte), bytes.length = 2 * n →
    (pairsOf bytes).length = n
  | 0, bytes, h => by
    have : bytes = [] := List.eq_nil_of_length_eq_zero (by omega)
    subst this; rfl
  | n + 1, hi :: lo :: rest, h => by
    have := pairsOf_length n rest (by simp at h; omega)
    simp [pairsOf, this]
  | n + 1, [], h => by simp at h
  | n + 1, [_], h => by simp at h; omega

/-- What `deliver` does with a burst: its first pair is at hand. -/
theorem deliver_voltage_cons {bytes : List Byte} {pair : Byte × Byte} {rest : List (Byte × Byte)}
    (h : pairsOf bytes = pair :: rest) :
    deliver .voltage bytes s = { s with transfer := some (.voltages 0 pair rest []) } := by
  simp [deliver, h]

/-- A read ends in delivery or in a TransportError (R88). -/
theorem finishRead_cases (reg : ResultReg) (result : BusResult) (s : State) :
    (∃ bytes, result = .ok bytes ∧ finishRead reg result s = deliver reg bytes s) ∨
    (∃ e, result = .error e ∧ finishRead reg result s = raise (.transport e) s) := by
  cases result with
  | ok bytes => exact .inl ⟨bytes, rfl, rfl⟩
  | error e => exact .inr ⟨e, rfl, rfl⟩

/-- One turn of RDV's loop: a failure of the whole read, one more sample, or the response. -/
theorem receiveVoltagePair_cases (tag : Tag) (raw : Datum) (index : Nat)
    (rest : List (Byte × Byte)) (out : List Sample) (s : State) :
    (8 ≤ tag.toNat ∧
      receiveVoltagePair tag raw index rest out s = raise (.decode regVolt index tag) s) ∨
    (∃ h : tag.toNat < 8, rest = [] ∧
      receiveVoltagePair tag raw index rest out s =
        respond (.voltages (out ++ [⟨⟨tag.toNat, h⟩, raw⟩])) s) ∨
    (∃ h : tag.toNat < 8, ∃ pair rest', rest = pair :: rest' ∧
      receiveVoltagePair tag raw index rest out s =
        { s with
          transfer := some (.voltages (index + 1) pair rest' (out ++ [⟨⟨tag.toNat, h⟩, raw⟩])) }) := by
  by_cases h : tag.toNat < 8
  · right
    cases rest with
    | nil => exact .inl ⟨h, rfl, by simp [receiveVoltagePair, h]⟩
    | cons pair rest' => exact .inr ⟨h, pair, rest', rfl, by simp [receiveVoltagePair, h]⟩
  · exact .inl ⟨by omega, by simp [receiveVoltagePair, h]⟩

/-- A voltage pair's two rows have one meaning: its turn of the loop at the burst in flight. -/
theorem exec_voltagePair {hi lo : Byte} {index : Nat} {pair : Byte × Byte}
    {rest : List (Byte × Byte)} {out : List Sample}
    (h : s.transfer = some (.voltages index pair rest out)) :
    ∃ i, decode (.voltagePair hi lo) = .instr i ∧
      exec i s = .next (receiveVoltagePair (pairTag hi) (pairRaw hi lo) index rest out s) := by
  by_cases ht : (pairTag hi).toNat < 8
  · exact ⟨_, by simp [decode, decodeVoltagePair, ht]; rfl, by simp [exec, execVsample, h]⟩
  · exact ⟨_, by simp [decode, decodeVoltagePair, ht]; rfl, by simp [exec, execVsampleInvalid, h]⟩

/-- Everything one step can do, by what is in flight and what the host presents. -/
theorem step_cases (s : State) :
    (∃ dev ch t nd, s.transfer = some (.command dev ch t nd) ∧
      step s = .next (writeCommand dev ch t nd s)) ∨
    (∃ reg received, s.transfer = some (.awaitData reg received) ∧
      step s = .next (readDataPhase reg received s)) ∨
    (∃ index pair rest out, s.transfer = some (.voltages index pair rest out) ∧
      step s = .next
        (receiveVoltagePair (pairTag pair.1) (pairRaw pair.1 pair.2) index rest out s)) ∨
    (∃ hi lo, s.transfer = some (.temperature hi lo) ∧ pairTag hi = tempTag ∧
      step s = .next (receiveTemperature (pairRaw hi lo) s)) ∨
    (∃ hi lo, s.transfer = some (.temperature hi lo) ∧ pairTag hi ≠ tempTag ∧
      step s = .next (raise (.decode regTemp 0 (pairTag hi)) s)) ∨
    (s.transfer = none ∧ s.phase = .settling ∧ (∀ rest, s.pending ≠ .reset :: rest) ∧
      step s = .next (settleElapsed s)) ∨
    (s.transfer = none ∧ nextEvent s = .reset ∧ step s = .next (resetBlock (takeStimulus s))) ∨
    (s.transfer = none ∧ s.phase ≠ .settling ∧ s.pending = [] ∧ step s = .next s) ∨
    (s.transfer = none ∧ s.phase ≠ .settling ∧ ∃ r rest, s.pending = .request r :: rest ∧
      ((∃ i, decode (.request r) = .instr i ∧ step s = exec i (takeStimulus s)) ∨
        (∃ rej, decode (.request r) = .reject rej ∧
          step s = .next (answerReject rej (takeStimulus s))))) := by
  cases htr : s.transfer with
  | some tr =>
    cases tr with
    | command dev ch t nd =>
      exact .inl ⟨dev, ch, t, nd, rfl, by
        simp [step, nextEvent, htr, transferEvent, exec, execCmdword]⟩
    | awaitData reg received =>
      exact .inr <| .inl ⟨reg, received, rfl, by simp [step, nextEvent, htr, transferEvent]⟩
    | voltages index pair rest out =>
      obtain ⟨i, hi, he⟩ := exec_voltagePair (hi := pair.1) (lo := pair.2) htr
      exact .inr <| .inr <| .inl ⟨index, pair, rest, out, rfl, by
        simp [step, nextEvent, htr, transferEvent, hi, advance, he]⟩
    | temperature hi lo =>
      by_cases ht : pairTag hi = tempTag
      · exact .inr <| .inr <| .inr <| .inl ⟨hi, lo, rfl, ht, by
          simp [step, nextEvent, htr, transferEvent, decode, decodeTemperaturePair, ht, advance,
            exec, execTsample]⟩
      · exact .inr <| .inr <| .inr <| .inr <| .inl ⟨hi, lo, rfl, ht, by
          simp [step, nextEvent, htr, transferEvent, decode, decodeTemperaturePair, ht, advance,
            answerReject]⟩
  | none =>
    iterate 5 right
    by_cases hs : s.phase = .settling
    · by_cases hr : ∃ rest, s.pending = .reset :: rest
      · obtain ⟨rest, hr⟩ := hr
        have hev : nextEvent s = .reset := by simp [nextEvent, htr, hs, hr, settlingEvent]
        exact .inr <| .inl ⟨rfl, hev, by simp [step, hev]⟩
      · have hr' : ∀ rest, s.pending ≠ .reset :: rest := fun rest h => hr ⟨rest, h⟩
        have hev : nextEvent s = .settle := by
          simp only [nextEvent, htr, hs, if_true]
          unfold settlingEvent
          split
          · exact absurd ‹_› (hr' _)
          · rfl
        exact .inl ⟨rfl, hs, hr', by simp [step, hev]⟩
    · right
      cases hp : s.pending with
      | nil =>
        exact .inr <| .inl ⟨rfl, hs, rfl, by simp [step, nextEvent, htr, hs, hp, hostEvent]⟩
      | cons x rest =>
        cases x with
        | request r =>
          have hev : nextEvent s = .fetch (.request r) := by
            simp [nextEvent, htr, hs, hp, hostEvent]
          refine .inr <| .inr ⟨rfl, hs, r, rest, rfl, ?_⟩
          cases hd : decode (.request r) with
          | instr i => exact .inl ⟨i, rfl, by simp [step, hev, hd, advance]⟩
          | reject rej => exact .inr ⟨rej, rfl, by simp [step, hev, hd, advance]⟩
        | reset =>
          have hev : nextEvent s = .reset := by simp [nextEvent, htr, hs, hp, hostEvent]
          exact .inl ⟨rfl, hev, by simp [step, hev]⟩
        | resetBetweenRequests =>
          have hev : nextEvent s = .reset := by simp [nextEvent, htr, hs, hp, hostEvent]
          exact .inl ⟨rfl, hev, by simp [step, hev]⟩

/-- In SETTLING, with no reset at the head of the host's list, the settle event fires (R109). -/
theorem step_settle (ht : s.transfer = none) (hp : s.phase = .settling)
    (hr : s.pending.head? ≠ some .reset) : step s = .next (settleElapsed s) := by
  rcases hs : s.pending with _ | ⟨x, rest⟩
  · simp [step, nextEvent, ht, hp, hs, settlingEvent]
  · cases x with
    | reset => simp [hs] at hr
    | request r => simp [step, nextEvent, ht, hp, hs, settlingEvent]
    | resetBetweenRequests => simp [step, nextEvent, ht, hp, hs, settlingEvent]

/-- When the host can act, a request that decodes to an instruction is run by its meaning. -/
theorem step_request {r : Request} {rest : List Stimulus} {i : Instr} (hq : Quiet s)
    (hp : s.pending = .request r :: rest) (hd : decode (.request r) = .instr i) :
    step s = exec i { s with pending := rest } := by
  simp [step, nextEvent, hq.1, hq.2, hp, hostEvent, hd, advance, takeStimulus]

/-- A CFG in flight writes its command word at the next step (R64, R70). -/
theorem step_command {dev : DevAddr} {ch : ChannelSet} {t nd : Bool}
    (h : s.transfer = some (.command dev ch t nd)) :
    step s = .next (writeCommand dev ch t nd s) := by
  simp [step, nextEvent, h, transferEvent, exec, execCmdword]

/-- A split read's data phase is the next step (R31). -/
theorem step_readData {reg : ResultReg} {received : Nat}
    (h : s.transfer = some (.awaitData reg received)) :
    step s = .next (readDataPhase reg received s) := by
  simp [step, nextEvent, h, transferEvent]

/-- A burst in flight takes its next pair at the next step (R71). -/
theorem step_voltagePair {index : Nat} {pair : Byte × Byte} {rest : List (Byte × Byte)}
    {out : List Sample} (h : s.transfer = some (.voltages index pair rest out)) :
    step s = .next
      (receiveVoltagePair (pairTag pair.1) (pairRaw pair.1 pair.2) index rest out s) := by
  obtain ⟨i, hi, he⟩ := exec_voltagePair (hi := pair.1) (lo := pair.2) h
  simp [step, nextEvent, h, transferEvent, hi, advance, he]

/-- A temperature pair in flight with the tag 8 is answered at the next step (R81, R82). -/
theorem step_temperature {hi lo : Byte} (h : s.transfer = some (.temperature hi lo))
    (ht : pairTag hi = tempTag) : step s = .next (receiveTemperature (pairRaw hi lo) s) := by
  simp only [step, nextEvent, h, transferEvent, decode, decodeTemperaturePair, ht, if_true,
    advance, exec, execTsample]

/-- A temperature pair in flight with another tag is a DecodeError (R80). -/
theorem step_temperature_bad {hi lo : Byte} (h : s.transfer = some (.temperature hi lo))
    (ht : pairTag hi ≠ tempTag) :
    step s = .next (raise (.decode regTemp 0 (pairTag hi)) s) := by
  simp only [step, nextEvent, h, transferEvent, decode, decodeTemperaturePair, ht, if_false,
    advance, answerReject]

/-- A host request decodes to one of the three operations, or its code is reserved (R43, R44). -/
theorem decodeRequest_cases (r : Request) :
    (r.op = opCfg ∧
      decode (.request r) = .instr (.cfg r.ch r.t r.nd (r.addr.getD devAddrDefault))) ∨
    (r.op = opRdv ∧ decode (.request r) = .instr .rdv) ∨
    (r.op = opRdt ∧ decode (.request r) = .instr .rdt) ∨
    (3 ≤ r.op.toNat ∧ decode (.request r) = .reject (.reservedOp r.op)) := by
  by_cases h0 : r.op = opCfg
  · exact .inl ⟨h0, by simp [decode, decodeRequest, h0]⟩
  by_cases h1 : r.op = opRdv
  · exact .inr <| .inl ⟨h1, by simp [decode, decodeRequest, h1, opRdv, opCfg]⟩
  by_cases h2 : r.op = opRdt
  · exact .inr <| .inr <| .inl ⟨h2, by simp [decode, decodeRequest, h2, opRdt, opRdv, opCfg]⟩
  · refine .inr <| .inr <| .inr ⟨?_, by simp [decode, decodeRequest, h0, h1, h2]⟩
    simp only [opCfg, opRdv, opRdt, ← BitVec.toNat_inj] at h0 h1 h2
    simp at h0 h1 h2
    omega

end Sys2Proof.Machine
end

