-- ==== Sys2Proof/Laws/Frames.lean ====
section
/-! SUPPORT. What each shared operation leaves unchanged, and what a step does with a host request. -/

namespace Sys2Proof.Machine

/-- An operation either goes on or gives one response, which advances `k` by 1 (R23). -/
def Answers (s t : State) : Prop :=
  (t.k = s.k ∧ t.responses = s.responses) ∨
  (t.k = s.k + 1 ∧ t.transfer = none ∧ ∃ r, t.responses = s.responses ++ [r])

/-- Fields that no operation of a read changes. -/
def ReadKeeps (s t : State) : Prop :=
  t.record = s.record ∧ t.timer = s.timer ∧ t.params = s.params ∧ t.pending = s.pending

theorem receiveVoltagePair_keeps (tag : Tag) (raw : Datum) (index : Nat)
    (rest : List (Byte × Byte)) (out : List Sample) (s : State) :
    ReadKeeps s (receiveVoltagePair tag raw index rest out s) ∧
    (receiveVoltagePair tag raw index rest out s).bus = s.bus ∧
    (receiveVoltagePair tag raw index rest out s).answers = s.answers ∧
    (receiveVoltagePair tag raw index rest out s).draws = s.draws ∧
    Answers s (receiveVoltagePair tag raw index rest out s) := by
  rcases receiveVoltagePair_cases tag raw index rest out s with ⟨_, e⟩ | ⟨_, _, e⟩ | ⟨_, _, _, _, e⟩
  all_goals simp [e, ReadKeeps, Answers, State.record]

theorem deliver_keeps (reg : ResultReg) (bytes : List Byte) (s : State) :
    ReadKeeps s (deliver reg bytes s) ∧ (deliver reg bytes s).bus = s.bus ∧
    Answers s (deliver reg bytes s) := by
  cases reg with
  | voltage => cases hp : pairsOf bytes <;> simp [deliver, hp, ReadKeeps, Answers, State.record]
  | temperature => simp [deliver, ReadKeeps, Answers, State.record]

theorem finishRead_keeps (reg : ResultReg) (result : BusResult) (s : State) :
    ReadKeeps s (finishRead reg result s) ∧ (finishRead reg result s).bus = s.bus ∧
    Answers s (finishRead reg result s) := by
  rcases finishRead_cases reg result s with ⟨bytes, _, e⟩ | ⟨_, _, e⟩
  · rw [e]; exact deliver_keeps reg bytes s
  · simp [e, ReadKeeps, Answers, State.record]

/-- A read's first step issues one transaction: the whole read, or its address phase (R31). -/
theorem startRead_keeps (reg : ResultReg) (received : Nat) (s : State) :
    ReadKeeps s (startRead reg received s) ∧
    (startRead reg received s).bus =
      s.bus ++ [if s.params.combinedRead then .read s.devAddr reg.address received
        else .write s.devAddr [reg.address]] ∧
    Answers s (startRead reg received s) := by
  unfold startRead
  cases hc : s.params.combinedRead with
  | true =>
    exact finishRead_keeps reg (busResult received s)
      (issue (.read s.devAddr reg.address received) s)
  | false =>
    cases busResult 0 s <;>
      simp [finishAddressPhase, ReadKeeps, Answers, State.record]

/-- The data phase of a split read issues one transaction (R31). -/
theorem readDataPhase_keeps (reg : ResultReg) (received : Nat) (s : State) :
    ReadKeeps s (readDataPhase reg received s) ∧
    (readDataPhase reg received s).bus = s.bus ++ [.readData s.devAddr received] ∧
    Answers s (readDataPhase reg received s) :=
  finishRead_keeps reg (busResult received s) (issue (.readData s.devAddr received) s)

theorem startConfigure_keeps (ch : ChannelSet) (t nd : Bool) (addr : DevAddr) (s : State) :
    ReadKeeps s (startConfigure ch t nd addr s) ∧ (startConfigure ch t nd addr s).bus = s.bus ∧
    Answers s (startConfigure ch t nd addr s) := by
  unfold startConfigure
  split <;> simp [ReadKeeps, Answers, State.record]

/-- The command write issues one transaction, then latches with no response, or answers an error with
the record unchanged (R65, R67, R70). -/
theorem writeCommand_cases (dev : DevAddr) (ch : ChannelSet) (t nd : Bool) (s : State) :
    (∃ bytes, busResult 0 s = .ok bytes ∧ writeCommand dev ch t nd s =
      latchConfiguration ch t nd dev (issue (.write dev (commandFrame ch t nd)) s)) ∨
    (∃ e, busResult 0 s = .error e ∧ writeCommand dev ch t nd s =
      raise (.transport e) (issue (.write dev (commandFrame ch t nd)) s)) := by
  unfold writeCommand
  cases busResult 0 s with
  | ok bytes => exact .inl ⟨bytes, rfl, rfl⟩
  | error e => exact .inr ⟨e, rfl, rfl⟩

/-- What a host request's step does, from the state with the request taken: CFG's start, an RDV with or
without a read, an RDT's read, or an error response. -/
theorem step_request_cases {r : Request} {rest : List Stimulus} {s t : State} (hq : Quiet s)
    (hp : s.pending = .request r :: rest) (hst : step s = .next t) :
    ∃ u : State, u = { s with pending := rest } ∧
      ((∃ ch te nd addr, t = startConfigure ch te nd addr u) ∨
        (u.phase = .ready ∧ popcount8 u.chanEn = 0 ∧ t = respond (.voltages []) u) ∨
        (u.phase = .ready ∧ 0 < popcount8 u.chanEn ∧
          t = startRead .voltage (2 * popcount8 u.chanEn) u) ∨
        (u.phase = .ready ∧ u.tempEn = true ∧ t = startRead .temperature 2 u) ∨
        (∃ e, t = raise e u)) := by
  refine ⟨{ s with pending := rest }, rfl, ?_⟩
  rcases decodeRequest_cases r with ⟨_, e⟩ | ⟨_, e⟩ | ⟨_, e⟩ | ⟨_, e⟩
  · rw [step_request hq hp e] at hst
    cases hst
    exact .inl ⟨_, _, _, _, rfl⟩
  · rw [step_request hq hp e, exec, execRdv] at hst
    cases hst
    by_cases hr : s.phase = .ready
    · by_cases hN : popcount8 s.chanEn = 0
      · exact .inr <| .inl ⟨hr, hN, by simp [hr, hN]⟩
      · exact .inr <| .inr <| .inl ⟨hr, by simpa [Nat.pos_iff_ne_zero] using hN, by simp [hr, hN]⟩
    · exact .inr <| .inr <| .inr <| .inr ⟨.notConfigured, by simp [hr]⟩
  · rw [step_request hq hp e, exec, execRdt] at hst
    cases hst
    by_cases hr : s.phase = .ready
    · by_cases hN : s.tempEn = true
      · exact .inr <| .inr <| .inr <| .inl ⟨hr, hN, by simp [hr, hN]⟩
      · exact .inr <| .inr <| .inr <| .inr ⟨.configuration tempNotEnabledMessage, by simp [hr, hN]⟩
    · exact .inr <| .inr <| .inr <| .inr ⟨.notConfigured, by simp [hr]⟩
  · have hst' : step s = .next (raise (.illegalOp r.op) { s with pending := rest }) := by
      simp [step, nextEvent, hq.1, hq.2, hp, hostEvent, e, advance, takeStimulus, answerReject]
    rw [hst'] at hst
    cases hst
    exact .inr <| .inr <| .inr <| .inr ⟨_, rfl⟩

end Sys2Proof.Machine
end

