-- ==== Sys2Proof/Laws/PerInstr.lean ====
section
/-! SUPPORT. The families of statements made once per instruction. -/

namespace Sys2Proof.Laws

open Sys2Proof.Machine

/-- The number an encoding is in the opcode table: the op code of a request, else the word. -/
def tableNumber : Fetched → Nat
  | .request r => r.op.toNat
  | .command w => w.toNat
  | .voltagePair hi lo => (hi ++ lo).toNat
  | .temperaturePair hi lo => (hi ++ lo).toNat

/-- The `mask` of an instruction's row in spec/opcode_table.json. -/
def rowMask : Instr → Nat
  | .cfg _ _ _ _ => 0xFF
  | .rdv => 0xFF
  | .rdt => 0xFF
  | .cfgw _ _ => 0xFF
  | .cmdword _ _ _ => 0x7700
  | .vsample _ _ => 0x8000
  | .vsampleInvalid _ _ => 0x8000
  | .tsample _ => 0xF000

/-- The `match` of an instruction's row in spec/opcode_table.json. -/
def rowMatch : Instr → Nat
  | .cfg _ _ _ _ => 0x00
  | .rdv => 0x01
  | .rdt => 0x02
  | .cfgw _ _ => 0x00
  | .cmdword _ _ _ => 0x0000
  | .vsample _ _ => 0x0000
  | .vsampleInvalid _ _ => 0x8000
  | .tsample _ => 0x8000

/-- What the encoder writes for a well-formed instruction matches that instruction's row. -/
def EncodeMatchesTable.Statement (i : Instr) : Prop :=
  i.wellFormed = true → tableNumber (encode i) &&& rowMask i = rowMatch i

theorem EncodeMatchesTable.cfg (ch : ChannelSet) (t nd : Bool) (addr : DevAddr) :
    EncodeMatchesTable.Statement (.cfg ch t nd addr) := by
  intro _; simp [tableNumber, encode, cfgRequest, opCfg, rowMask, rowMatch]

theorem EncodeMatchesTable.rdv : EncodeMatchesTable.Statement .rdv := by
  intro _; rfl

theorem EncodeMatchesTable.rdt : EncodeMatchesTable.Statement .rdt := by
  intro _; rfl

theorem EncodeMatchesTable.cfgw (w : Word16) (addr : DevAddr) :
    EncodeMatchesTable.Statement (.cfgw w addr) := by
  intro _; simp [tableNumber, encode, cfgRequest, opCfg, rowMask, rowMatch]

/-- The high byte of a command word has only the bits of T and ND (R48, R51). -/
theorem encodeHigh_reserved (t nd : Bool) : encodeHigh t nd &&& 0x77#8 = 0#8 := by
  cases t <;> cases nd <;> rfl

/-- No command word has a reserved bit set (R51). -/
theorem encodeCmd_reserved (ch : ChannelSet) (t nd : Bool) :
    encodeCmd ch t nd &&& reservedCommandMask = 0#16 := by
  have hmask : reservedCommandMask = 0x77#8 ++ 0x00#8 := rfl
  rw [encodeCmd, hmask, BitVec.and_append, encodeHigh_reserved]
  simp

theorem EncodeMatchesTable.cmdword (ch : ChannelSet) (t nd : Bool) :
    EncodeMatchesTable.Statement (.cmdword ch t nd) := by
  intro _
  have h := congrArg BitVec.toNat (encodeCmd_reserved ch t nd)
  rw [BitVec.toNat_and] at h
  exact h

/-- The pair of a tag and a datum, as one word, is the tag above the datum (R56). -/
theorem encodePair_word (tag : Tag) (raw : Datum) :
    (encodePair tag raw).1 ++ (encodePair tag raw).2 = tag ++ raw := by
  apply BitVec.eq_of_getLsbD_eq
  intro i hi
  simp only [encodePair, BitVec.getLsbD_append, BitVec.getLsbD_extractLsb']
  by_cases h8 : i < 8
  · simp [h8, show i < 12 by omega]
  · by_cases h12 : i < 12
    · simp [h8, h12, show i - 8 < 4 by omega, show 8 + (i - 8) = i by omega]
    · simp [h8, h12, show ¬ i - 8 < 4 by omega, show i - 8 - 4 = i - 12 by omega]

/-- The number of a pair is its tag times 4096 and its datum (R56). -/
theorem encodePair_toNat (tag : Tag) (raw : Datum) :
    ((encodePair tag raw).1 ++ (encodePair tag raw).2).toNat = tag.toNat * 4096 + raw.toNat := by
  rw [encodePair_word, BitVec.toNat_append, Nat.shiftLeft_eq, Nat.mul_comm,
    ← Nat.two_pow_add_eq_or_of_lt raw.isLt]

/-- The top bit of a 16-bit number is its quotient by 2^15. -/
theorem and_8000 {n : Nat} (h : n < 65536) : n &&& 0x8000 = n / 32768 * 32768 := by
  have hb := Nat.and_two_pow n 15
  simp only [Nat.toNat_testBit, Nat.reducePow] at hb
  rw [hb]
  omega

theorem EncodeMatchesTable.vsample (tag : Tag) (raw : Datum) :
    EncodeMatchesTable.Statement (.vsample tag raw) := by
  intro hw
  have ht : tag.toNat < 8 := by simpa [Instr.wellFormed] using hw
  have hr := raw.isLt
  show ((encodePair tag raw).1 ++ (encodePair tag raw).2).toNat &&& 0x8000 = 0
  rw [and_8000 (BitVec.isLt _), encodePair_toNat]
  omega

theorem EncodeMatchesTable.vsampleInvalid (tag : Tag) (raw : Datum) :
    EncodeMatchesTable.Statement (.vsampleInvalid tag raw) := by
  intro hw
  have ht : 8 ≤ tag.toNat := by simpa [Instr.wellFormed] using hw
  have ht' := tag.isLt
  have hr := raw.isLt
  show ((encodePair tag raw).1 ++ (encodePair tag raw).2).toNat &&& 0x8000 = 0x8000
  rw [and_8000 (BitVec.isLt _), encodePair_toNat]
  omega

theorem EncodeMatchesTable.tsample (raw : Datum) :
    EncodeMatchesTable.Statement (.tsample raw) := by
  intro _
  show ((encodePair tempTag raw).1 ++ (encodePair tempTag raw).2).toNat &&& 0xF000 = 0x8000
  have hmask : (0xF000#16) = (0xF#4 : Tag) ++ (0#12 : Datum) := rfl
  have hand : (tempTag ++ raw) &&& 0xF000#16 = (0x8000#16) := by
    rw [hmask, BitVec.and_append]
    simp [tempTag]
  have h := congrArg BitVec.toNat hand
  rw [BitVec.toNat_and] at h
  rw [encodePair_word]
  exact h

end Sys2Proof.Laws
end

