-- ==== Sys2Proof/Tests/Slice0.lean ====
section
/-! SUPPORT. The model's own tests, and for each statement with hypotheses a state that meets them.
Expected values are those of spec/95_test_vectors.md, named at each test. -/

namespace Sys2Proof.Tests

open Sys2Proof Sys2Proof.Machine

/-! ### WellFormed refuses an ill-formed term at each check -/

theorem test_wf_cfgw_reserved_low : (Instr.cfgw 0x8191#16 0x2F#7).wellFormed = false := by decide
theorem test_wf_cfgw_reserved_high : (Instr.cfgw 0x9091#16 0x2F#7).wellFormed = false := by decide
theorem test_wf_cfgw_accepted : (Instr.cfgw 0x8091#16 0x2F#7).wellFormed = true := by decide
theorem test_wf_vsample_tag : (Instr.vsample 8#4 0#12).wellFormed = false := by decide
theorem test_wf_vsampleInvalid_tag : (Instr.vsampleInvalid 7#4 0#12).wellFormed = false := by decide

/-! ### Decoding, by words written out from the spec's encodings (V-HOST, S1, S3, S5, S6) -/

/-- Channels 0, 3 and 7. -/
def ch037 : ChannelSet := #v[true, false, false, true, false, false, false, true]

/-- Channel 2. -/
def ch2 : ChannelSet := #v[false, false, true, false, false, false, false, false]

theorem test_decode_cfg_default_address :
    decode (.request ⟨0x00#8, ch037, true, false, none⟩) =
      .instr (.cfg ch037 true false 0x2F#7) := by decide
theorem test_decode_cfg_given_address :
    decode (.request ⟨0x00#8, noChannels, false, true, some 0x28#7⟩) =
      .instr (.cfg noChannels false true 0x28#7) := by decide
theorem test_decode_rdv : decode (.request (Request.bare 0b00000001#8)) = .instr .rdv := by decide
theorem test_decode_rdt : decode (.request (Request.bare 0b00000010#8)) = .instr .rdt := by decide
theorem test_decode_reserved_op :
    decode (.request (Request.bare 0xFF#8)) = .reject (.reservedOp 0xFF#8) := by decide
theorem test_decode_cfgw_words :
    decode (encode (.cfgw 0x8020#16 0x2F#7)) = .instr (.cfg ch2 true false 0x2F#7) := by decide
theorem test_decode_cmdword :
    decode (.command 0b1000000010010001#16) = .instr (.cmdword ch037 true false) := by decide
theorem test_decode_cmdword_reserved :
    decode (.command 0b1000000110010001#16) = .reject (.reservedCommandBits 0x8191#16) := by decide
theorem test_decode_vsample :
    decode (.voltagePair 0b00100011#8 0b10101011#8) = .instr (.vsample 2#4 939#12) := by decide
theorem test_decode_vsampleInvalid :
    decode (.voltagePair 0b10011111#8 0b00000000#8) = .instr (.vsampleInvalid 9#4 0xF00#12) := by
  decide
theorem test_decode_tsample :
    decode (.temperaturePair 0b10000000#8 0b00000101#8) = .instr (.tsample 5#12) := by decide
theorem test_decode_temperature_tag_9 :
    decode (.temperaturePair 0x95#8 0x00#8) = .reject (.temperatureTag 9#4) := by decide

/-! ### The bit-level functions (V-ENC, V-MEM, V-RDT) -/

theorem test_encodeCmd_8891 : encodeCmd ch037 true true = 0x8891#16 := by decide
theorem test_encodeCmd_0020 : encodeCmd ch2 false false = 0x0020#16 := by decide
theorem test_membership_91 : decodeMembership 0x91#8 = ch037 := by decide
theorem test_sext12_minus_one : sext12 0xFFF#12 = -1 := by decide
theorem test_sext12_boundary : sext12 0x800#12 = -2048 := by decide
theorem test_celsius_exact :
    (celsiusValue (celsiusOf .exact (-2048))).num = -512 ∧
    (celsiusValue (celsiusOf .exact 2047)).num = 2047 ∧
    (celsiusValue (celsiusOf .exact 2047)).den = 4 := by decide
theorem test_celsius_binary12 :
    celsiusOf (.binary 12) (-2048) = .binary 12 true 2048 (-2) ∧
    celsiusOf (.binary 24) 5 = .binary 24 false 10485760 (-23) := by decide

/-! ### The transcriber (V-HOST, P1) -/

/-- `CFG ch=(0, 3, 7), t=1, nd=0 ; op 0x00`, with braces. -/
def cfgLine : List Char :=
  ['C', 'F', 'G', ' ', 'c', 'h', '=', openBrace, '0', ',', ' ', '3', ',', ' ', '7', closeBrace, ',',
    ' ', 't', '=', '1', ',', ' ', 'n', 'd', '=', '0', ' ', ';', ' ', 'o', 'p']

theorem test_assemble_cfg : assemble cfgLine = some ⟨0x00#8, ch037, true, false, none⟩ := by decide
theorem test_assemble_cfg_empty :
    assemble ['C', 'F', 'G', ' ', 'c', 'h', '=', openBrace, closeBrace, ',', 't', '=', '0', ',', 'n',
      'd', '=', '1', ',', ' ', 'a', 'd', 'd', 'r', '=', '0', 'x', '2', '8'] =
      some ⟨0x00#8, noChannels, false, true, some 0x28#7⟩ := by decide
theorem test_assemble_cfgw :
    assemble ['C', 'F', 'G', 'W', ' ', '0', 'x', '8', '0', '2', '0'] =
      some ⟨0x00#8, ch2, true, false, none⟩ := by decide
theorem test_assemble_cfgw_refused :
    assemble ['C', 'F', 'G', 'W', ' ', '0', 'x', '8', '1', '9', '1'] = none := by decide
theorem test_assemble_rdv : assemble ['R', 'D', 'V'] = some (Request.bare 0x01#8) := by decide
theorem test_assemble_no_form : assemble ['R', 'D', 'V', ' ', '1'] = none := by decide
/-- R46: a list that begins or ends with a comma matches no form. -/
theorem test_assemble_comma_first :
    assemble ['C', 'F', 'G', ' ', 'c', 'h', '=', openBrace, ',', '3', closeBrace, ',', 't', '=', '0',
      ',', 'n', 'd', '=', '0'] = none ∧
    assemble ['C', 'F', 'G', ' ', 'c', 'h', '=', openBrace, '3', ',', closeBrace, ',', 't', '=', '0',
      ',', 'n', 'd', '=', '0'] = none := by decide
theorem test_transcribe_repeated_index :
    transcribe (.cfg [1, 1] false false none) = none := by decide

/-! ### One step each -/

/-- A configured block with given channels, temperature bit and coming answers. -/
def ready (ch : ChannelSet) (t : Bool) (answers : List Answer) : State :=
  { State.reset with phase := .ready, chanEn := ch, tempEn := t, answers := answers }

/-- The same with a split read. -/
def readySplit (ch : ChannelSet) (t : Bool) (answers : List Answer) : State :=
  { ready ch t answers with params := ⟨100, false, .exact⟩ }

/-- A block with a burst in flight at its pair `index`. -/
def burst (index : Nat) (pair : Byte × Byte) (rest : List (Byte × Byte)) (out : List Sample) :
    State :=
  { ready ch2 false [] with transfer := some (.voltages index pair rest out) }

/-- A block whose CFG is about to write its command word. -/
def writing (answers : List Answer) : State :=
  { State.reset with
    transfer := some (.command 0x2F#7 ch037 true false), answers := answers }

/-- A block whose CFG is SETTLING, with what the host presents. -/
def settling (pending : List Stimulus) : State :=
  { State.reset with
    phase := .settling, chanEn := ch037, tempEn := true, timer := some 100, pending := pending }

/-- The state a step or a meaning answers. -/
def after : Host.Outcome State Fault Refusal → Option State
  | .next s => some s
  | .fault _ => none
  | .refused _ => none

/-- V-CFG row 1: `W(2F, [00 80 91])`. -/
theorem test_cmdword_frame :
    (after (exec (.cmdword ch037 true false) (writing [.bytes []]))).map (·.bus) =
      some [.write 0x2F#7 [0x00#8, 0x80#8, 0x91#8]] := by decide
/-- The default parameters but for a settle delay of `n / 2` ms, `n` odd. -/
def settleHalves (n : Int) (h : n.natAbs.Coprime 2) : Params :=
  { Params.default with settleDelayMs := ⟨n, 2, by decide, h⟩ }
/-- R9: 100.5 ms is a legal settle delay and 99.5 ms is none. -/
theorem test_settle_delay_legal :
    ((settleHalves 201 (by decide)).legal, (settleHalves 199 (by decide)).legal) =
      (true, false) := by decide
/-- R9, R66: the settle timer runs for a delay of 100.5 ms. -/
theorem test_settle_delay_fraction :
    (after (exec (.cmdword ch037 true false)
      { writing [.bytes []] with params := settleHalves 201 (by decide) })).map (·.timer) =
      some (some ⟨201, 2, by decide, by decide⟩) := by decide
/-- V-CFG row 3: a failed write leaves the block UNCONFIGURED. -/
theorem test_cmdword_error :
    (after (exec (.cmdword ch037 true false) (writing [.error 7]))).map
      (fun s => (s.phase, s.responses)) =
      some (.unconfigured, [.error (.transport 7)]) := by decide
/-- V-CFG row 1: the response comes with the settle event. -/
theorem test_settle_responds :
    (after (step (settling []))).map (fun s => (s.phase, s.responses)) =
      some (.ready, [.configured 0x8091#16]) := by decide
/-- V-CFG row 5: a reset while SETTLING, no response. -/
theorem test_reset_while_settling :
    (after (step (settling [.reset]))).map (fun s => (s.phase, s.responses, s.tempEn)) =
      some (.unconfigured, [], false) := by decide
/-- V-CFG row 4. -/
theorem test_cfg_already_configured :
    (after (exec (.cfg ch2 false false 0x2F#7) (ready ch037 true []))).map
      (fun s => (s.responses, s.chanEn)) =
      some ([.error .alreadyConfigured], ch037) := by decide
/-- V-HOST: `CFGW 0x8020`. -/
theorem test_cfgw_expands :
    (after (exec (.cfgw 0x8020#16 0x48#7) State.reset)).map (·.transfer) =
      some (some (.command 0x48#7 ch2 true false)) := by decide
/-- V-RDV row 6: the read of six bytes. -/
theorem test_rdv_reads :
    (after (exec .rdv (ready ch037 true
      [.bytes [0x0A#8, 0xBC#8, 0x31#8, 0x23#8, 0x7F#8, 0xFF#8]]))).map
      (fun s => (s.bus, s.transfer)) =
      some ([.read 0x2F#7 0x01#8 6],
        some (.voltages 0 (0x0A#8, 0xBC#8) [(0x31#8, 0x23#8), (0x7F#8, 0xFF#8)] [])) := by decide
/-- V-RDV, the last split row: no data phase after a failed address phase. -/
theorem test_rdv_split_error :
    (after (exec .rdv (readySplit ch2 true [.error 3]))).map (fun s => (s.bus, s.responses)) =
      some ([.write 0x2F#7 [0x01#8]], [.error (.transport 3)]) := by decide
/-- V-RDV row 5: unsigned, not −2048. -/
theorem test_vsample_unsigned :
    (after (exec (.vsample 0#4 0x800#12) (burst 0 (0x08#8, 0x00#8) [] []))).map (·.responses) =
      some [.voltages [⟨0, 2048#12⟩]] := by decide
/-- V-RDV row 13: the pair index of the error. -/
theorem test_vsampleInvalid_index :
    (after (exec (.vsampleInvalid 9#4 0x555#12)
      (burst 1 (0x95#8, 0x55#8) [(0xF0#8, 0x00#8)] [⟨0, 16#12⟩]))).map (·.responses) =
      some [.error (.decode 0x01#8 1 9#4)] := by decide
/-- V-PRI row 1. -/
theorem test_rdt_not_configured_first :
    (after (exec .rdt State.reset)).map (·.responses) = some [.error .notConfigured] := by decide
/-- V-RDT: `ConfigurationError`, no transaction. -/
theorem test_rdt_gate :
    (after (exec .rdt (ready noChannels false []))).map (fun s => (s.responses, s.bus)) =
      some ([.error (.configuration "temperature sensor not enabled")], []) := by decide
/-- V-RDT row 3. -/
theorem test_tsample_boundary :
    (after (exec (.tsample 0x800#12)
      { ready noChannels true [] with transfer := some (.temperature 0x88#8 0x00#8) })).map
      (·.responses) = some [.temperature (-2048) (.exact (mkRat (-2048) 4))] := by decide
/-- V-RDT row 11: a voltage tag at register 0x02. -/
theorem test_temperature_tag_error :
    (after (step { ready noChannels true [] with
      transfer := some (.temperature 0x00#8 0x05#8) })).map (·.responses) =
      some [.error (.decode 0x02#8 0 0#4)] := by decide
/-- V-PRI row 6: IllegalOp before any phase check. -/
theorem test_illegal_op :
    (after (step { State.reset with pending := [.request (Request.bare 0x04#8)] })).map
      (fun s => (s.responses, s.bus, s.k)) = some ([.error (.illegalOp 0x04#8)], [], 1) := by decide

/-! ### The table's words, placed for the next step -/

theorem test_table_word_cfg :
    decodeTableWord 8 0x00 = some (.cfg noChannels false false 0x00#7) := by decide
theorem test_table_word_cmdword :
    decodeTableWord 16 0x8091 = some (.cmdword ch037 true false) := by decide
theorem test_table_word_vsample :
    decodeTableWord 16 0x23AB = some (.vsample 2#4 939#12) := by decide
theorem test_table_word_vsampleInvalid :
    decodeTableWord 16 0xFFFF = some (.vsampleInvalid 15#4 0xFFF#12) := by decide
theorem test_table_word_tsample : decodeTableWord 16 0x87FF = some (.tsample 0x7FF#12) := by decide
theorem test_placed_rdv_runs :
    (after (step (State.reset.withFetchWord 8 0x01))).map (·.responses) =
      some [.error .notConfigured] := by decide
theorem test_placed_vsample_runs :
    (after (step (State.reset.withFetchWord 16 0x23AB))).map (·.responses) =
      some [.voltages [⟨2, 939#12⟩]] := by decide

/-! ### Witnesses: a state and operands that meet each statement's hypotheses -/

/-- A state with one request to take. -/
def presenting (s : State) (op : Byte) : State :=
  { s with pending := [.request (Request.bare op)] }

theorem quiet_presenting_ready (op : Byte) : Quiet (presenting (ready ch2 true []) op) :=
  ⟨rfl, by simp [presenting, ready]⟩
theorem quiet_presenting_reset (op : Byte) : Quiet (presenting State.reset op) :=
  ⟨rfl, by simp [presenting, State.reset]⟩

/-- A reachable state with a burst of one pair in flight meets the invariant. -/
theorem burst_inv : Inv (burst 0 (0x23#8, 0xAB#8) [] []) :=
  ⟨by decide, by simp [timerOk, burst, ready, State.reset], rfl, rfl, by decide⟩
theorem ready_inv : Inv (presenting (ready ch2 true []) 0x01#8) :=
  ⟨by decide, by simp [timerOk, presenting, ready, State.reset], trivial⟩
theorem settling_inv : Inv (settling [.request (Request.bare 0x01#8)]) :=
  ⟨by decide, by simp [timerOk, settling], trivial⟩
theorem writing_inv : Inv (writing [.bytes []]) :=
  ⟨by decide, by simp [timerOk, writing, State.reset], rfl⟩

theorem witness_DecodeOfEncode : (Instr.vsample 7#4 4095#12).wellFormed = true := by decide
theorem witness_DecodeOfEncode_invalid : (Instr.vsampleInvalid 8#4 0#12).wellFormed = true := by
  decide
theorem witness_EncodeOfDecode :
    decode (.voltagePair 0x7F#8 0xFF#8) = .instr (.vsample 7#4 0xFFF#12) ∧
    decode (.temperaturePair 0x8F#8 0xFF#8) = .instr (.tsample 0xFFF#12) ∧
    decode (.command 0x88FF#16) =
      .instr (.cmdword #v[true, true, true, true, true, true, true, true] true true) := by decide
theorem witness_RequestDecoding :
    (3 : Nat) ≤ (Request.bare 0x03#8).op.toNat ∧ (Request.bare 0x02#8).op = 0x02#8 ∧
    (Request.bare 0x01#8).op = 0x01#8 ∧ (Request.bare 0x00#8).op = 0x00#8 := by decide
theorem witness_TemperatureDatum :
    (0x7FF#12 : Datum).toNat ≤ 0x7FF ∧ 0x7FF < (0x800#12 : Datum).toNat := by decide
theorem witness_Celsius : (CelsiusRepr.binary 12).legal = true ∧ CelsiusRepr.exact.legal = true := by
  decide
theorem witness_BinaryCelsius : 12 ≤ 12 ∧ (0x800#12 : Datum) ≠ 0#12 := by decide
theorem witness_TemperatureRange :
    sext12 0x800#12 = -2048 ∧ sext12 0x7FF#12 = 2047 ∧ (-2048 : Int) ≤ -2048 ∧ (-2048 : Int) ≤ 2047 := by
  decide
theorem witness_CfgwRuns : (Instr.cfgw 0x88FF#16 0x7F#7).wellFormed = true := by decide
theorem witness_CfgwRefused : (0x0100#16 : Word16).getLsbD 8 = true := by decide
theorem witness_TranscribedCfgw :
    transcribe (.cfgw 0x8020 (some 0x7F)) = some ⟨0x00#8, ch2, true, false, some 0x7F#7⟩ := by decide
theorem witness_TranscribedCfg :
    (∀ i ∈ [7, 0, 3], i < 8) ∧ ([7, 0, 3] : List Nat).Nodup ∧ ¬ ([7, 7] : List Nat).Nodup ∧
    (∃ i ∈ ([8] : List Nat), 8 ≤ i) := by decide
theorem witness_TranscribedCfg_address :
    transcribe (.cfg [1] false true (some 127)) =
      some ⟨0x00#8, #v[false, true, false, false, false, false, false, false], false, true,
        some 0x7F#7⟩ ∧
    transcribe (.cfg [1] false true (some 128)) = none := by decide
theorem witness_CfgAccepted :
    State.reset.phase = .unconfigured ∧ (0x88FF#16 &&& 0x7700#16 : Word16) = 0#16 := by decide
theorem witness_CfgRefused :
    (ready ch2 true []).phase ≠ .unconfigured ∧ (0x8091#16 &&& 0x7700#16 : Word16) = 0#16 := by
  decide
theorem witness_CommandWrite :
    (writing [.bytes []]).transfer = some (.command 0x2F#7 ch037 true false) ∧
    busResult 0 (writing [.bytes []]) = .ok [] := by decide
theorem witness_FailedCommandWrite : busResult 0 (writing [.error 7]) = .error 7 := by decide
theorem witness_SettleElapsed :
    (settling []).transfer = none ∧ (settling []).phase = .settling ∧
    (settling []).pending.head? ≠ some .reset := by decide
theorem witness_CfgRuns :
    Quiet (presenting State.reset 0x00#8) ∧
    (presenting State.reset 0x00#8).pending = [.request (Request.bare 0x00#8)] ∧
    (Request.bare 0x00#8).op = 0x00#8 ∧ ([] : List Stimulus).head? ≠ some .reset :=
  ⟨quiet_presenting_reset _, rfl, rfl, by decide⟩
theorem witness_ReadsOutsideReady : State.reset.phase ≠ .ready := by decide
theorem witness_RdvWithNoChannel :
    (ready noChannels true []).phase = .ready ∧
    ∀ i : Fin 8, (ready noChannels true []).chanEn[i] = false := by decide
theorem witness_RdvReads :
    (ready ch2 true [.bytes [0x23#8, 0xAB#8]]).phase = .ready ∧
    0 < popcount8 (ready ch2 true [.bytes [0x23#8, 0xAB#8]]).chanEn ∧
    (ready ch2 true [.bytes [0x23#8, 0xAB#8]]).params.combinedRead = true ∧
    busResult (2 * popcount8 ch2) (ready ch2 true [.bytes [0x23#8, 0xAB#8]]) =
      .ok [0x23#8, 0xAB#8] := by decide
theorem witness_FailedRead :
    busResult (2 * popcount8 ch2) (ready ch2 true [.error 5]) = .error 5 ∧
    busResult 2 (ready ch2 true [.error 5]) = .error 5 ∧
    busResult 0 (readySplit ch2 true [.error 5]) = .error 5 ∧
    (readySplit ch2 true []).params.combinedRead = false ∧ 0 < popcount8 ch2 := by decide
theorem witness_SplitRead :
    busResult 0 (readySplit ch2 true [.bytes [], .bytes [0x23#8, 0xAB#8]]) = .ok [] ∧
    (after (exec .rdv (readySplit ch2 true [.bytes [], .bytes [0x23#8, 0xAB#8]]))).map
      (busResult 2) = some (.ok [0x23#8, 0xAB#8]) := by decide
theorem witness_VoltagePair :
    (7#4 : Tag).toNat < 8 ∧
    (burst 0 (0x7F#8, 0xFF#8) [] []).transfer = some (.voltages 0 (0x7F#8, 0xFF#8) [] []) ∧
    (burst 0 (0#8, 0#8) [(1#8, 1#8)] []).transfer =
      some (.voltages 0 (0#8, 0#8) [(1#8, 1#8)] []) := by decide
theorem witness_InvalidVoltagePair :
    7 < (8#4 : Tag).toNat ∧
    (burst 0 (0x80#8, 0x00#8) [] []).transfer = some (.voltages 0 (0x80#8, 0x00#8) [] []) := by
  decide
theorem witness_RdvRuns :
    Quiet (presenting (ready ch2 true []) 0x01#8) ∧
    (presenting (ready ch2 true []) 0x01#8).pending = [.request (Request.bare 0x01#8)] ∧
    (Request.bare 0x01#8).op = 0x01#8 := ⟨quiet_presenting_ready _, rfl, rfl⟩
theorem witness_RdtGate :
    (ready ch2 false []).phase = .ready ∧ (ready ch2 false []).tempEn = false := by decide
theorem witness_RdtReads :
    (ready noChannels true [.bytes [0x80#8, 0x05#8]]).tempEn = true ∧
    busResult 2 (ready noChannels true [.bytes [0x80#8, 0x05#8]]) = .ok [0x80#8, 0x05#8] := by decide
theorem witness_TemperaturePair :
    ({ ready noChannels true [] with transfer := some (.temperature 0x88#8 0#8) } : State).transfer =
      some (.temperature 0x88#8 0#8) ∧
    (ready noChannels true []).params.legal = true := by decide
theorem witness_WrongTemperatureTag :
    ({ ready noChannels true [] with transfer := some (.temperature 0x7F#8 0#8) } : State).transfer =
      some (.temperature 0x7F#8 0#8) ∧ (0x7F#8 : Byte).toNat / 16 ≠ 8 := by decide
theorem witness_RdtRuns :
    Quiet (presenting (ready ch2 true []) 0x02#8) ∧
    (presenting (ready ch2 true []) 0x02#8).pending = [.request (Request.bare 0x02#8)] :=
  ⟨quiet_presenting_ready _, rfl⟩
theorem witness_TemperatureReadIgnores :
    (after (exec .rdt (ready ch2 true [.bytes [0x80#8, 0x05#8]]))).isSome = true ∧
    (after (exec (.tsample 5#12)
      { ready noChannels true [] with transfer := some (.temperature 0x80#8 0x05#8) })).isSome =
      true := by decide
theorem witness_ReservedOp :
    Quiet (presenting State.reset 0x03#8) ∧
    (presenting State.reset 0x03#8).pending = [.request (Request.bare 0x03#8)] ∧
    (3 : Nat) ≤ (Request.bare 0x03#8).op.toNat := ⟨quiet_presenting_reset _, rfl, by decide⟩
theorem witness_ReadsLeave :
    (after (exec .rdv (ready ch2 true [.error 1]))).isSome = true ∧
    (after (exec (.vsample 2#4 939#12) (burst 0 (0x23#8, 0xAB#8) [] []))).isSome = true ∧
    (after (exec (.vsampleInvalid 9#4 0#12) (burst 0 (0x90#8, 0#8) [] []))).isSome = true := by
  decide
theorem witness_ConfigureFrame :
    (after (exec (.cfg ch2 true false 0x2F#7) State.reset)).isSome = true ∧
    (after (exec (.cfgw 0x8020#16 0x2F#7) State.reset)).isSome = true ∧
    (after (exec (.cmdword ch037 true false) (writing [.bytes []]))).isSome = true := by decide
theorem witness_StepRunsDecoded :
    nextEvent (presenting State.reset 0x01#8) = .fetch (.request (Request.bare 0x01#8)) ∧
    decode (.request (Request.bare 0x01#8)) = .instr .rdv := by decide
theorem witness_StepRunsDecoded_pairs :
    nextEvent (burst 0 (0x23#8, 0xAB#8) [] []) = .fetch (.voltagePair 0x23#8 0xAB#8) ∧
    decode (.voltagePair 0x23#8 0xAB#8) = .instr (.vsample 2#4 939#12) ∧
    nextEvent { ready noChannels true [] with transfer := some (.temperature 0x80#8 0x05#8) } =
      .fetch (.temperaturePair 0x80#8 0x05#8) ∧
    (writing []).transfer = some (.command 0x2F#7 ch037 true false) := by decide
theorem witness_PlacedTableWord :
    decodeTableWord 8 0x02 = some .rdt ∧
    decodeTableWord 16 0x8891 = some (.cmdword ch037 true true) ∧
    decodeTableWord 16 0x8000 = some (.tsample 0#12) := by decide
theorem witness_Reset :
    (settling [.reset]).transfer = none ∧ (settling [.reset]).pending = [.reset] := by decide
theorem witness_Reset_betweenRequests :
    ({ ready ch2 true [] with pending := [.resetBetweenRequests] } : State).transfer = none ∧
    ({ ready ch2 true [] with pending := [.resetBetweenRequests] } : State).phase ≠ .settling := by
  decide
theorem witness_RequestIndex :
    (after (step (settling []))).map (·.k) = some 1 ∧
    (after (step (settling [.reset]))).map (·.k) = some 0 ∧
    (after (step (presenting State.reset 0x00#8))).map (·.k) = some 0 := by decide
theorem witness_SecondRequest :
    (settling [.request (Request.bare 0x01#8)]).phase = .settling ∧
    (after (step (settling [.request (Request.bare 0x01#8)]))).isSome = true ∧
    (settling [.request (Request.bare 0x01#8)]).pending = [.request (Request.bare 0x01#8)] := by
  decide
theorem witness_OnlyListed :
    Inv (presenting (ready ch2 true []) 0x01#8) ∧ Inv (writing [.bytes []]) ∧
    (after (step (writing [.bytes []]))).isSome = true := ⟨ready_inv, writing_inv, by decide⟩
theorem witness_Immutable :
    Inv (presenting (ready ch2 true []) 0x03#8) ∧
    (presenting (ready ch2 true []) 0x03#8).phase ≠ .unconfigured ∧
    nextEvent (presenting (ready ch2 true []) 0x03#8) ≠ .reset ∧
    (after (step (presenting (ready ch2 true []) 0x03#8))).isSome = true :=
  ⟨⟨by decide, by simp [timerOk, presenting, ready, State.reset], trivial⟩, by decide, by decide,
    by decide⟩
theorem witness_PhaseMoves :
    Inv (settling [.request (Request.bare 0x01#8)]) ∧
    nextEvent (settling [.request (Request.bare 0x01#8)]) ≠ .reset ∧
    nextEvent (writing [.bytes []]) ≠ .reset := ⟨settling_inv, by decide, by decide⟩
theorem witness_ErrorsChange :
    (after (step (presenting State.reset 0x03#8))).map (·.responses) =
      some (State.reset.responses ++ [.error (.illegalOp 0x03#8)]) := by decide
theorem witness_NoiseDelay :
    nextEvent (presenting State.reset 0x02#8) ≠ .settle ∧
    nextEvent (presenting State.reset 0x02#8) ≠ .reset ∧
    (after (step (presenting State.reset 0x02#8))).isSome = true := by decide
theorem witness_NoiseDelay_noSend (ch : ChannelSet) (t n : Bool) :
    nextEvent (presenting State.reset 0x02#8) ≠ .send ch t n := by
  simp [nextEvent, presenting, State.reset, hostEvent]
theorem witness_RunOver : RunOver State.reset := ⟨rfl, rfl, by decide⟩
theorem witness_EveryStep :
    Inv (burst 0 (0x23#8, 0xAB#8) [] []) ∧
    (after (step (burst 0 (0x23#8, 0xAB#8) [] []))).isSome = true := ⟨burst_inv, by decide⟩
/-- A CFG request with an immediate reset behind it. -/
def cfgThenReset : State :=
  { State.reset with
    pending := [.request (Request.bare 0x00#8), .reset], answers := [.bytes []] }

theorem witness_CfgCutByReset :
    Quiet cfgThenReset ∧ cfgThenReset.phase = .unconfigured ∧
    cfgThenReset.pending = [.request (Request.bare 0x00#8), .reset] ∧
    busResult 0 cfgThenReset = .ok [] := ⟨⟨rfl, by decide⟩, by decide, by decide, by decide⟩
theorem witness_ChannelList :
    readIndices [.word ['0'], .mark ',', .word ['7'], .mark closeBrace] = some ([0, 7], []) ∧
    readIndices [.mark closeBrace] = some ([], []) := by decide
theorem witness_WordWithout : State.reset.transfer = none := by decide

end Sys2Proof.Tests
end

section
/-! THEOREMS. The scope family (00_scope.md): the structural constants of R8, and the Celsius value of R82,
which no legal representation of R9 rounds. -/

namespace Sys2Proof.Proofs

open Sys2Proof.Machine

/-- Settles O3: each constant is defined as the literal R8 gives. -/
theorem structuralConstantsAreThoseOfTheSource :
    Obligations.StructuralConstantsAreThoseOfTheSource :=
  ⟨rfl, rfl, rfl, rfl, rfl, rfl, rfl, rfl, rfl⟩

/-- R83: twelve bits of two's complement reach no further than 2 ^ 11 from zero. -/
theorem natAbs_sext12_le (raw : Datum) : (sext12 raw).natAbs ≤ 2048 := by
  have hraw : raw.toNat < 4096 := raw.isLt
  unfold sext12
  split <;> omega

/-- The magnitude of every `q` has at most 12 bits, the least significand width R9 admits. -/
theorem log2_natAbs_sext12_lt (raw : Datum) : (sext12 raw).natAbs.log2 < 12 := by
  have hle : (sext12 raw).natAbs ≤ 2048 := natAbs_sext12_le raw
  by_cases hzero : (sext12 raw).natAbs = 0
  · simp [hzero]
  · exact (Nat.log2_lt hzero).2 (by omega)

/-- The sign `celsiusOf` keeps beside the magnitude is the sign of `q`. -/
theorem sign_mul_abs (q : Int) : (if decide (q < 0) = true then -1 else 1) * |q| = q := by
  by_cases hneg : q < 0
  · simp [hneg, abs_of_neg hneg]
  · simp [hneg, abs_of_nonneg (not_lt.mp hneg)]

/-- The places a significand is shifted up by cancel against its exponent, and only `q / 4` is left. -/
theorem mkRat_shifted_eq_quarter (q : Int) (k : Nat) :
    mkRat (q * 2 ^ k) (2 ^ (k + 2)) = (q : Rat) * (1 / 4 : Rat) := by
  rw [Rat.mkRat_eq_div]
  push_cast
  rw [pow_add]
  field_simp
  norm_num

theorem celsiusValue_celsiusOf_exact (q : Int) :
    celsiusValue (celsiusOf .exact q) = (q : Rat) * (1 / 4 : Rat) := by
  simpa [celsiusOf, celsiusValue] using mkRat_shifted_eq_quarter q 0

/-- R82: a significand wide enough for `q` is only ever filled up with zeros, so nothing is rounded. -/
theorem celsiusValue_celsiusOf_binary (p : Nat) (q : Int) (hfits : q.natAbs.log2 < p) :
    celsiusValue (celsiusOf (.binary p) q) = (q : Rat) * (1 / 4 : Rat) := by
  by_cases hq : q = 0
  · simp [hq, celsiusOf, celsiusValue]
  · have hup : ((q.natAbs.log2 : Int) - ((p : Int) - 1) - 2).toNat = 0 := by omega
    have hdown : (-((q.natAbs.log2 : Int) - ((p : Int) - 1) - 2)).toNat =
        (p - 1 - q.natAbs.log2) + 2 := by omega
    simp only [celsiusOf, if_neg hq, celsiusValue, hup, hdown, Nat.shiftLeft_eq, pow_zero, mul_one]
    push_cast
    rw [← mul_assoc, sign_mul_abs, mkRat_shifted_eq_quarter]

/-- Settles O11: the exact representation holds `q / 4` itself, and a legal binary format has room for
all twelve bits of `q`. -/
theorem celsiusValueIsExactQuarter : Obligations.CelsiusValueIsExactQuarter := by
  intro repr raw hlegal
  cases repr with
  | exact => exact celsiusValue_celsiusOf_exact _
  | binary p =>
    have hwidth : 12 ≤ p := of_decide_eq_true hlegal
    exact celsiusValue_celsiusOf_binary p _ ((log2_natAbs_sext12_lt raw).trans_le hwidth)

end Sys2Proof.Proofs
end

section
/-! THEOREMS. The state family (10_state.md): what one step does to the record `S`, the settle timer, the
request index and the operation in flight (R14 to R26), and which steps read the channel set and the
noise-delay bit (R18, R84). -/

namespace Sys2Proof.Proofs

open Sys2Proof.Machine

/-! ### The four things a step can do to the record -/

/-- Two states have one record exactly when the five fields of `S` agree (R14). -/
theorem record_eq_iff {s t : State} :
    t.record = s.record ↔
      t.phase = s.phase ∧ t.chanEn = s.chanEn ∧ t.tempEn = s.tempEn ∧ t.ndEn = s.ndEn ∧
        t.devAddr = s.devAddr := by
  simp [State.record]

/-- A step that writes nothing of `S`, the timer or the parameters: all it can do to the block is end the
operation in flight or take it further. -/
structure KeepsRecord (s t : State) : Prop where
  record : t.record = s.record
  timer : t.timer = s.timer
  params : t.params = s.params
  answers : Answers s t

/-- What the frame lemmas of the shared operations say is that they keep the record. -/
theorem keepsRecord_of_readKeeps {s t : State} (hk : ReadKeeps s t) (ha : Answers s t) :
    KeepsRecord s t := by
  obtain ⟨hrecord, htimer, hparams, -⟩ := hk
  exact ⟨hrecord, htimer, hparams, ha⟩

/-- The host's list is no part of the record, so a request's step may be judged with the request taken. -/
theorem keepsRecord_of_pending {s t : State} {rest : List Stimulus}
    (h : KeepsRecord { s with pending := rest } t) : KeepsRecord s t :=
  ⟨h.record, h.timer, h.params, h.answers⟩

theorem respond_keepsRecord (r : Response) (s : State) : KeepsRecord s (respond r s) :=
  ⟨rfl, rfl, rfl, .inr ⟨rfl, rfl, r, rfl⟩⟩

theorem raise_keepsRecord (e : Error) (s : State) : KeepsRecord s (raise e s) :=
  respond_keepsRecord (.error e) s

/-- A host request's own step never writes `S`: even CFG only begins (R64). -/
theorem step_request_keepsRecord {r : Request} {rest : List Stimulus} {s t : State} (hq : Quiet s)
    (hp : s.pending = .request r :: rest) (hst : step s = .next t) : KeepsRecord s t := by
  obtain ⟨u, rfl, hu⟩ := step_request_cases hq hp hst
  apply keepsRecord_of_pending (rest := rest)
  rcases hu with ⟨ch, te, nd, addr, rfl⟩ | ⟨_, _, rfl⟩ | ⟨_, _, rfl⟩ | ⟨_, _, rfl⟩ | ⟨e, rfl⟩
  · obtain ⟨hk, _, ha⟩ := startConfigure_keeps ch te nd addr { s with pending := rest }
    exact keepsRecord_of_readKeeps hk ha
  · exact respond_keepsRecord _ _
  · obtain ⟨hk, _, ha⟩ := startRead_keeps .voltage (2 * popcount8 s.chanEn) { s with pending := rest }
    exact keepsRecord_of_readKeeps hk ha
  · obtain ⟨hk, _, ha⟩ := startRead_keeps .temperature 2 { s with pending := rest }
    exact keepsRecord_of_readKeeps hk ha
  · exact raise_keepsRecord _ _

/-- Only three steps write `S`: the latch of a CFG's successful command write (R65), the settle event
(R66) and reset (R104).  Every other step keeps the record, and in SETTLING with nothing in flight there
is no other step. -/
theorem step_record_cases {s t : State} (hst : step s = .next t) :
    (KeepsRecord s t ∧ (s.transfer = none → s.phase ≠ .settling)) ∨
    (∃ dev ch te nd, s.transfer = some (.command dev ch te nd) ∧
      t = latchConfiguration ch te nd dev (issue (.write dev (commandFrame ch te nd)) s)) ∨
    (s.phase = .settling ∧ t = settleElapsed s) ∨
    (nextEvent s = .reset ∧ t = resetBlock (takeStimulus s)) := by
  rcases step_cases s with
    ⟨dev, ch, te, nd, htr, hs⟩ | ⟨reg, received, htr, hs⟩ | ⟨index, pair, rest, out, htr, hs⟩ |
    ⟨hi, lo, htr, _, hs⟩ | ⟨hi, lo, htr, _, hs⟩ | ⟨_, hp, _, hs⟩ | ⟨_, hev, hs⟩ | ⟨_, hp, _, hs⟩ |
    ⟨htr, hp, r, rest, hpend, _⟩
  on_goal 9 => exact .inl ⟨step_request_keepsRecord ⟨htr, hp⟩ hpend hst, fun _ => hp⟩
  all_goals rw [hs] at hst; cases hst
  · rcases writeCommand_cases dev ch te nd s with ⟨_, _, hw⟩ | ⟨e, _, hw⟩
    · exact .inr <| .inl ⟨dev, ch, te, nd, htr, hw⟩
    · rw [hw]
      exact .inl ⟨⟨rfl, rfl, rfl, .inr ⟨rfl, rfl, _, rfl⟩⟩, by simp [htr]⟩
  · obtain ⟨hk, _, ha⟩ := readDataPhase_keeps reg received s
    exact .inl ⟨keepsRecord_of_readKeeps hk ha, by simp [htr]⟩
  · obtain ⟨hk, _, _, _, ha⟩ :=
      receiveVoltagePair_keeps (pairTag pair.1) (pairRaw pair.1 pair.2) index rest out s
    exact .inl ⟨keepsRecord_of_readKeeps hk ha, by simp [htr]⟩
  · exact .inl ⟨respond_keepsRecord _ s, by simp [htr]⟩
  · exact .inl ⟨raise_keepsRecord _ s, by simp [htr]⟩
  · exact .inr <| .inr <| .inl ⟨hp, rfl⟩
  · exact .inr <| .inr <| .inr ⟨hev, rfl⟩
  · exact .inl ⟨⟨rfl, rfl, rfl, .inl ⟨rfl, rfl⟩⟩, fun _ => hp⟩

/-! ### The operation in flight stays consistent with the record -/

/-- What an operation in flight demands, it demands of the record alone. -/
theorem transferOk_of_record_eq {s t : State} {tr : Option Transfer} (hr : t.record = s.record)
    (h : transferOk s tr) : transferOk t tr := by
  obtain ⟨hphase, hchan, htemp, -, -⟩ := record_eq_iff.mp hr
  match tr with
  | none => exact h
  | some (.command ..) | some (.awaitData .voltage _) | some (.awaitData .temperature _)
  | some (.voltages ..) | some (.temperature ..) =>
    simpa only [transferOk, hphase, hchan, htemp] using h

/-- A read asked for by the rules of its register delivers what its loop starts from: `2*N` bytes are the
`N` pairs of a burst with no sample yet (R61, R71). -/
theorem deliver_transferOk {reg : ResultReg} {received : Nat} {bytes : List Byte} {s : State}
    (hread : transferOk s (some (.awaitData reg received))) (hlen : bytes.length = received) :
    transferOk (deliver reg bytes s) (deliver reg bytes s).transfer := by
  cases reg with
  | temperature =>
    obtain ⟨hready, -, htemp⟩ := hread
    exact ⟨hready, htemp⟩
  | voltage =>
    obtain ⟨hready, hcount, -⟩ := hread
    have hpairs := pairsOf_length (popcount8 s.chanEn) bytes (hlen.trans hcount)
    cases hb : pairsOf bytes with
    | nil => simp [deliver, hb, transferOk]
    | cons pair rest =>
      rw [hb, List.length_cons] at hpairs
      rw [deliver_voltage_cons hb]
      exact ⟨hready, rfl, show 0 + 1 + rest.length = popcount8 s.chanEn by omega⟩

/-- R32: only a burst of the length asked for is delivered. -/
theorem finishRead_transferOk {reg : ResultReg} {received : Nat} {s u : State}
    (hread : transferOk s (some (.awaitData reg received))) :
    transferOk (finishRead reg (busResult received u) s)
      (finishRead reg (busResult received u) s).transfer := by
  rcases finishRead_cases reg (busResult received u) s with ⟨bytes, hok, hf⟩ | ⟨e, _, hf⟩
  · rw [hf]
    exact deliver_transferOk hread (busResult_length hok)
  · rw [hf]
    trivial

theorem readDataPhase_transferOk {reg : ResultReg} {received : Nat} {s : State}
    (hread : transferOk s (some (.awaitData reg received))) :
    transferOk (readDataPhase reg received s) (readDataPhase reg received s).transfer :=
  finishRead_transferOk (transferOk_of_record_eq rfl hread)

/-- R31: a combined read delivers at once, a split one waits for its data phase, a failed one is over. -/
theorem startRead_transferOk {reg : ResultReg} {received : Nat} {s : State}
    (hread : transferOk s (some (.awaitData reg received))) :
    transferOk (startRead reg received s) (startRead reg received s).transfer := by
  unfold startRead
  split
  · exact finishRead_transferOk (transferOk_of_record_eq rfl hread)
  · cases busResult 0 s with
    | ok sent => exact transferOk_of_record_eq rfl hread
    | error e => trivial

/-- One turn of RDV's loop: the pair at hand becomes the sample of its place, and the next is at hand. -/
theorem receiveVoltagePair_transferOk {tag : Tag} {raw : Datum} {index : Nat} {pair : Byte × Byte}
    {rest : List (Byte × Byte)} {out : List Sample} {s : State}
    (hburst : transferOk s (some (.voltages index pair rest out))) :
    transferOk (receiveVoltagePair tag raw index rest out s)
      (receiveVoltagePair tag raw index rest out s).transfer := by
  obtain ⟨hready, hout, hcount⟩ := hburst
  rcases receiveVoltagePair_cases tag raw index rest out s with
    ⟨_, hv⟩ | ⟨_, _, hv⟩ | ⟨_, next, rest', hrest, hv⟩
  · rw [hv]; trivial
  · rw [hv]; trivial
  · rw [hv]
    rw [hrest, List.length_cons] at hcount
    exact ⟨hready, by simp [hout], show index + 1 + 1 + rest'.length = popcount8 s.chanEn by omega⟩

/-- R64: a CFG goes in flight only where the block is UNCONFIGURED. -/
theorem startConfigure_transferOk (ch : ChannelSet) (te nd : Bool) (addr : DevAddr) (s : State) :
    transferOk (startConfigure ch te nd addr s) (startConfigure ch te nd addr s).transfer := by
  unfold startConfigure
  split
  case isTrue hphase => exact hphase
  case isFalse => trivial

theorem step_request_transferOk {r : Request} {rest : List Stimulus} {s t : State} (hq : Quiet s)
    (hp : s.pending = .request r :: rest) (hst : step s = .next t) : transferOk t t.transfer := by
  obtain ⟨u, _, hu⟩ := step_request_cases hq hp hst
  rcases hu with ⟨ch, te, nd, addr, rfl⟩ | ⟨_, _, rfl⟩ | ⟨hready, hN, rfl⟩ | ⟨hready, htemp, rfl⟩ |
    ⟨e, rfl⟩
  · exact startConfigure_transferOk ch te nd addr u
  · trivial
  · exact startRead_transferOk (reg := .voltage) ⟨hready, rfl, hN⟩
  · exact startRead_transferOk (reg := .temperature) ⟨hready, rfl, htemp⟩
  · trivial

theorem step_transferOk {s t : State} (hok : transferOk s s.transfer) (hst : step s = .next t) :
    transferOk t t.transfer := by
  rcases step_cases s with
    ⟨dev, ch, te, nd, htr, hs⟩ | ⟨reg, received, htr, hs⟩ | ⟨index, pair, rest, out, htr, hs⟩ |
    ⟨hi, lo, _, _, hs⟩ | ⟨hi, lo, _, _, hs⟩ | ⟨_, _, _, hs⟩ | ⟨_, _, hs⟩ | ⟨_, _, _, hs⟩ |
    ⟨htr, hp, r, rest, hpend, _⟩
  on_goal 9 => exact step_request_transferOk ⟨htr, hp⟩ hpend hst
  all_goals rw [hs] at hst; cases hst
  · rcases writeCommand_cases dev ch te nd s with ⟨_, _, hw⟩ | ⟨_, _, hw⟩ <;> rw [hw] <;> trivial
  · exact readDataPhase_transferOk (htr ▸ hok)
  · exact receiveVoltagePair_transferOk (htr ▸ hok)
  · trivial
  · trivial
  · trivial
  · trivial
  · exact hok

/-! ### The invariant and what it bounds -/

/-- R9, R66: a legal settle delay is at least 100 ms. -/
theorem settleDelay_ge_of_legal {p : Params} (h : p.legal = true) : 100 ≤ p.settleDelayMs := by
  simp only [Params.legal, Bool.and_eq_true, decide_eq_true_eq] at h
  exact h.1

/-- No step writes the parameters of R9 (log 13). -/
theorem step_params {s t : State} (hst : step s = .next t) : t.params = s.params := by
  rcases step_record_cases hst with ⟨hk, _⟩ | ⟨dev, ch, te, nd, _, rfl⟩ | ⟨_, rfl⟩ | ⟨_, rfl⟩
  · exact hk.params
  all_goals rfl

/-- R26, R66, R100: the latch starts the timer with a legal delay as it enters SETTLING, and the settle
event and reset stop it as they leave. -/
theorem step_timerOk {s t : State} (hlegal : s.params.legal = true) (htimer : timerOk s)
    (hst : step s = .next t) : timerOk t := by
  rcases step_record_cases hst with ⟨hk, _⟩ | ⟨dev, ch, te, nd, _, rfl⟩ | ⟨_, rfl⟩ | ⟨_, rfl⟩
  · obtain ⟨hphase, -⟩ := record_eq_iff.mp hk.record
    simpa only [timerOk, hphase, hk.timer] using htimer
  · simpa [timerOk] using settleDelay_ge_of_legal hlegal
  · simp [timerOk]
  · simp [timerOk]

/-- Settles O57: each of the invariant's three parts is kept for its own reason. -/
theorem everyStepKeepsTheInvariant : Obligations.EveryStepKeepsTheInvariant := by
  intro s t hinv hst
  exact
    { params := step_params hst ▸ hinv.params
      timer := step_timerOk hinv.params hinv.timer hst
      transfer := step_transferOk hinv.transfer hst }

/-- R38: a CFG that is SETTLING has written its command word, and no read is in flight beside it. -/
theorem transfer_eq_none_of_settling {s : State} (hok : transferOk s s.transfer)
    (hphase : s.phase = .settling) : s.transfer = none := by
  cases htr : s.transfer with
  | none => rfl
  | some tr =>
    rw [htr] at hok
    match tr with
    | .command .. | .awaitData .voltage _ | .awaitData .temperature _ | .voltages .. | .temperature .. =>
      simp [transferOk, hphase] at hok

/-- Settles O47: a step that keeps the record or latches is counted by `Answers`; the settle event is one
response, and reset is none. -/
theorem requestIndexCountsResponses : Obligations.RequestIndexCountsResponses := by
  intro s t hst
  rcases step_record_cases hst with ⟨hk, _⟩ | ⟨dev, ch, te, nd, _, rfl⟩ | ⟨_, rfl⟩ | ⟨hev, rfl⟩
  · rcases hk.answers with hsame | ⟨hcount, _, hresp⟩
    · exact .inl hsame
    · exact .inr <| .inl ⟨hcount, hresp⟩
  · exact .inl ⟨rfl, rfl⟩
  · exact .inr <| .inl ⟨rfl, _, rfl⟩
  · exact .inr <| .inr ⟨hev, rfl, rfl⟩

/-- Settles O49: the one step that writes the fields without a reset is the latch, and the invariant has
it in UNCONFIGURED. -/
theorem configurationIsImmutable : Obligations.ConfigurationIsImmutable := by
  intro s t hinv hphase hst hreset
  rcases step_record_cases hst with ⟨hk, _⟩ | ⟨dev, ch, te, nd, htr, _⟩ | ⟨_, rfl⟩ | ⟨hev, _⟩
  · exact (record_eq_iff.mp hk.record).2
  · have hun : transferOk s (some (.command dev ch te nd)) := htr ▸ hinv.transfer
    exact absurd hun hphase
  · exact ⟨rfl, rfl, rfl, rfl⟩
  · exact absurd hev hreset

/-- Settles O50: the latch leaves UNCONFIGURED for SETTLING, the settle event leaves SETTLING for READY,
and a step that keeps the record is never taken in SETTLING. -/
theorem phaseOnlyMovesForwardButForReset : Obligations.PhaseOnlyMovesForwardButForReset := by
  intro s t hinv hst hreset
  rcases step_record_cases hst with
    ⟨hk, hidle⟩ | ⟨dev, ch, te, nd, htr, rfl⟩ | ⟨hphase, rfl⟩ | ⟨hev, _⟩
  · obtain ⟨hphase, -⟩ := record_eq_iff.mp hk.record
    have hnot : s.phase ≠ .settling := fun hset =>
      hidle (transfer_eq_none_of_settling hinv.transfer hset) hset
    exact ⟨hphase.trans, fun hset => absurd hset hnot, fun hun => .inl (hphase.trans hun)⟩
  · have hun : s.phase = .unconfigured := by
      have hok := hinv.transfer
      rwa [htr] at hok
    simp [hun]
  · simp [hphase]
  · exact absurd hev hreset

/-! ### Noninterference of the channel set and the noise-delay bit -/

/-- The state with another channel set and another noise-delay bit.  The new set is given as a function of
the old: a constant one replaces the set, the identity leaves it. -/
def reconfigure (g : ChannelSet → ChannelSet) (nd : Bool) (s : State) : State :=
  { s with chanEn := g s.chanEn, ndEn := nd }

/-- The outcome of a step with its next state changed. -/
def mapNext (f : State → State) :
    Host.Outcome State Fault Refusal → Host.Outcome State Fault Refusal
  | .next s => .next (f s)
  | .fault r => .fault r
  | .refused r => .refused r

section Reconfigure

variable (g : ChannelSet → ChannelSet) (nd : Bool) (s : State)

@[simp] theorem mapNext_next (f : State → State) : mapNext f (.next s) = .next (f s) := rfl

@[simp] theorem reconfigure_phase : (reconfigure g nd s).phase = s.phase := rfl
@[simp] theorem reconfigure_tempEn : (reconfigure g nd s).tempEn = s.tempEn := rfl
@[simp] theorem reconfigure_transfer : (reconfigure g nd s).transfer = s.transfer := rfl
@[simp] theorem reconfigure_params : (reconfigure g nd s).params = s.params := rfl
@[simp] theorem reconfigure_chanEn_id : (reconfigure id nd s).chanEn = s.chanEn := rfl

@[simp] theorem respond_reconfigure (r : Response) :
    respond r (reconfigure g nd s) = reconfigure g nd (respond r s) := rfl

@[simp] theorem raise_reconfigure (e : Error) :
    raise e (reconfigure g nd s) = reconfigure g nd (raise e s) := rfl

@[simp] theorem issue_reconfigure (tr : Transaction) :
    issue tr (reconfigure g nd s) = reconfigure g nd (issue tr s) := rfl

@[simp] theorem busResult_reconfigure (received : Nat) :
    busResult received (reconfigure g nd s) = busResult received s := rfl

theorem deliver_reconfigure (reg : ResultReg) (bytes : List Byte) :
    deliver reg bytes (reconfigure g nd s) = reconfigure g nd (deliver reg bytes s) := by
  cases reg with
  | temperature => rfl
  | voltage =>
    unfold deliver
    cases pairsOf bytes <;> rfl

@[simp] theorem finishRead_reconfigure (reg : ResultReg) (result : BusResult) :
    finishRead reg result (reconfigure g nd s) = reconfigure g nd (finishRead reg result s) := by
  cases result with
  | ok bytes => exact deliver_reconfigure g nd s reg bytes
  | error e => rfl

@[simp] theorem finishAddressPhase_reconfigure (reg : ResultReg) (received : Nat)
    (result : BusResult) :
    finishAddressPhase reg received result (reconfigure g nd s) =
      reconfigure g nd (finishAddressPhase reg received result s) := by
  cases result <;> rfl

/-- A read addresses the device of `S` and asks for the count it is given, and reads nothing else (R31). -/
@[simp] theorem startRead_reconfigure (reg : ResultReg) (received : Nat) :
    startRead reg received (reconfigure g nd s) = reconfigure g nd (startRead reg received s) := by
  have hdev : (reconfigure g nd s).devAddr = s.devAddr := rfl
  unfold startRead
  by_cases hc : s.params.combinedRead = true <;> simp [hc, hdev]

theorem readDataPhase_reconfigure (reg : ResultReg) (received : Nat) :
    readDataPhase reg received (reconfigure g nd s) =
      reconfigure g nd (readDataPhase reg received s) :=
  finishRead_reconfigure g nd (issue (.readData s.devAddr received) s) reg (busResult received s)

theorem startConfigure_reconfigure (ch : ChannelSet) (te n : Bool) (addr : DevAddr) :
    startConfigure ch te n addr (reconfigure g nd s) =
      reconfigure g nd (startConfigure ch te n addr s) := by
  by_cases hp : s.phase = .unconfigured
  · simp [startConfigure, hp, reconfigure]
  · simp [startConfigure, hp]

theorem receiveVoltagePair_reconfigure (tag : Tag) (raw : Datum) (index : Nat)
    (rest : List (Byte × Byte)) (out : List Sample) :
    receiveVoltagePair tag raw index rest out (reconfigure g nd s) =
      reconfigure g nd (receiveVoltagePair tag raw index rest out s) := by
  unfold receiveVoltagePair
  split
  · cases rest <;> rfl
  · rfl

theorem answerReject_reconfigure (rej : Reject) :
    answerReject rej (reconfigure g nd s) = reconfigure g nd (answerReject rej s) := by
  cases rej <;> rfl

theorem advance_reconfigure (f : Fetched) :
    advance f (reconfigure g nd s) = reconfigure g nd (advance f s) := by
  cases f <;> rfl

theorem execRdt_reconfigure :
    execRdt (reconfigure g nd s) = mapNext (reconfigure g nd) (execRdt s) := by
  unfold execRdt
  by_cases hp : s.phase = .ready
  · by_cases ht : s.tempEn = true <;> simp [hp, ht]
  · simp [hp]

theorem execTsample_reconfigure (raw : Datum) :
    execTsample raw (reconfigure g nd s) = mapNext (reconfigure g nd) (execTsample raw s) := by
  unfold execTsample
  rw [reconfigure_transfer]
  split <;> rfl

theorem execVsample_reconfigure (tag : Tag) (raw : Datum) :
    execVsample tag raw (reconfigure g nd s) = mapNext (reconfigure g nd) (execVsample tag raw s) := by
  unfold execVsample
  rw [reconfigure_transfer]
  split
  · rw [receiveVoltagePair_reconfigure, mapNext_next]
  · rfl

/-- RDV reads the channel set, for its `N` (R71), so for it only the noise-delay bit may change. -/
theorem execRdv_reconfigure :
    execRdv (reconfigure id nd s) = mapNext (reconfigure id nd) (execRdv s) := by
  unfold execRdv
  by_cases hp : s.phase = .ready
  · by_cases hN : popcount8 s.chanEn = 0 <;> simp [hp, hN]
  · simp [hp]

theorem execCfgw_reconfigure (w : Word16) (addr : DevAddr) :
    execCfgw w addr (reconfigure g nd s) = mapNext (reconfigure g nd) (execCfgw w addr s) := by
  unfold execCfgw
  split
  · rw [startConfigure_reconfigure, mapNext_next]
  · rfl

/-- Every instruction but CMDWORD runs the same whatever the noise-delay bit is (R18). -/
theorem exec_reconfigure {i : Instr} (hi : ∀ ch te n, i ≠ .cmdword ch te n) :
    exec i (reconfigure id nd s) = mapNext (reconfigure id nd) (exec i s) := by
  cases i with
  | cfg ch te n addr => exact congrArg _ (startConfigure_reconfigure id nd s ch te n addr)
  | rdv => exact execRdv_reconfigure nd s
  | rdt => exact execRdt_reconfigure id nd s
  | cfgw w addr => exact execCfgw_reconfigure id nd s w addr
  | cmdword ch te n => exact absurd rfl (hi ch te n)
  | vsample tag raw => exact execVsample_reconfigure id nd s tag raw
  | vsampleInvalid tag raw => exact execVsample_reconfigure id nd s tag raw
  | tsample raw => exact execTsample_reconfigure id nd s raw

end Reconfigure

/-- Settles O37: the gate of RDT, its read and its result are functions of the other fields (R84). -/
theorem temperatureReadIgnoresChannels : Obligations.TemperatureReadIgnoresChannels := by
  intro ch nd raw i s t hi hex
  show exec i (reconfigure (fun _ => ch) nd s) = .next (reconfigure (fun _ => ch) nd t)
  rcases hi with rfl | rfl
  · exact (execRdt_reconfigure _ nd s).trans (congrArg (mapNext _) hex)
  · exact (execTsample_reconfigure _ nd s raw).trans (congrArg (mapNext _) hex)

/-- R52: the block sends its command word and never fetches one. -/
theorem nextEvent_ne_fetch_command (s : State) (w : Word16) :
    nextEvent s ≠ .fetch (.command w) := by
  unfold nextEvent
  split
  · rename_i tr _
    cases tr <;> simp [transferEvent]
  · split
    · unfold settlingEvent
      split <;> simp
    · unfold hostEvent
      split <;> simp

/-- R63: a CMDWORD is read from the command layout only. -/
theorem fetched_of_decode_cmdword {f : Fetched} {ch : ChannelSet} {te n : Bool}
    (h : decode f = .instr (.cmdword ch te n)) : ∃ w, f = .command w := by
  cases f with
  | request r => rcases decodeRequest_cases r with ⟨_, e⟩ | ⟨_, e⟩ | ⟨_, e⟩ | ⟨_, e⟩ <;> simp [e] at h
  | command w => exact ⟨w, rfl⟩
  | voltagePair hi lo =>
    by_cases ht : (pairTag hi).toNat < 8 <;> simp [decode, decodeVoltagePair, ht] at h
  | temperaturePair hi lo =>
    by_cases ht : pairTag hi = tempTag <;> simp [decode, decodeTemperaturePair, ht] at h

/-- A step that is neither the command write, the settle event nor reset does not read the noise-delay
bit, and its event does not depend on it either. -/
theorem step_reconfigure (nd : Bool) {s : State} (hsettle : nextEvent s ≠ .settle)
    (hreset : nextEvent s ≠ .reset) (hsend : ∀ ch te n, nextEvent s ≠ .send ch te n) :
    step (reconfigure id nd s) = mapNext (reconfigure id nd) (step s) := by
  have hevent : nextEvent (reconfigure id nd s) = nextEvent s := rfl
  unfold step
  rw [hevent]
  cases hev : nextEvent s with
  | idle => rfl
  | reset => exact absurd hev hreset
  | settle => exact absurd hev hsettle
  | readData reg received => exact congrArg _ (readDataPhase_reconfigure id nd s reg received)
  | send ch te n => exact absurd hev (hsend ch te n)
  | fetch f =>
    simp only [advance_reconfigure]
    cases hd : decode f with
    | reject rej => exact congrArg _ (answerReject_reconfigure id nd (advance f s) rej)
    | instr i =>
      refine exec_reconfigure nd (advance f s) fun ch te n hi => ?_
      obtain ⟨w, rfl⟩ := fetched_of_decode_cmdword (hi ▸ hd)
      exact nextEvent_ne_fetch_command s w hev

/-- Settles O52: the changed state takes the same event, and its outcome is the same but for the bit
(R18). -/
theorem noiseDelayBitIsReadByNoRead : Obligations.NoiseDelayBitIsReadByNoRead := by
  intro nd s t hsettle hreset hsend hst
  exact (step_reconfigure nd hsettle hreset hsend).trans (congrArg (mapNext _) hst)

end Sys2Proof.Proofs
end

section
/-! THEOREMS. The memory family (20_memory.md): the bus transactions a step issues (R29 to R35), the two forms
of a read (R31) and how one ends, and the request that is held meanwhile (R38, R113). -/

namespace Sys2Proof.Proofs

open Sys2Proof.Machine

/-! ### The next event -/

/-- R38, R106: an operation in flight goes on before anything else. -/
theorem nextEvent_of_transfer {s : State} {tr : Transfer} (htr : s.transfer = some tr) :
    nextEvent s = transferEvent tr := by
  simp [nextEvent, htr]

/-- R38: where the host can act, its next stimulus is the event. -/
theorem nextEvent_of_quiet {s : State} (hq : Quiet s) : nextEvent s = hostEvent s.pending := by
  obtain ⟨htr, hphase⟩ := hq
  simp [nextEvent, htr, hphase]

/-- R106: a reset comes from the head of the host's list, so a request there shuts it out. -/
theorem nextEvent_ne_reset_of_request {s : State} {r : Request} {rest : List Stimulus}
    (hpend : s.pending = .request r :: rest) : nextEvent s ≠ .reset := by
  cases htr : s.transfer with
  | some tr =>
    rw [nextEvent_of_transfer htr]
    cases tr <;> simp [transferEvent]
  | none =>
    by_cases hphase : s.phase = .settling
    · simp [nextEvent, htr, hphase, hpend, settlingEvent]
    · simp [nextEvent_of_quiet ⟨htr, hphase⟩, hpend, hostEvent]

/-- Settles O42: `step` is the dispatch on the next event, and the event is what stands next. -/
theorem stepRunsTheDecodedInstruction : Obligations.StepRunsTheDecodedInstruction := by
  refine ⟨?_, ?_, ?_, ?_, ?_⟩
  · intro f i s hev hdec
    simp only [step, hev, hdec]
  · intro dev ch t nd s htr
    simp only [step, nextEvent_of_transfer htr, transferEvent]
  · intro r rest s hq hpend
    exact ⟨by rw [nextEvent_of_quiet hq, hpend, hostEvent], by simp [advance, takeStimulus, hpend]⟩
  · intro index pair rest out s htr
    exact ⟨nextEvent_of_transfer htr, rfl⟩
  · intro hi lo s htr
    exact ⟨nextEvent_of_transfer htr, rfl⟩

/-- Settles O54: each of the four words looks for its own operation in flight first. -/
theorem wordWithoutItsOperationStops : Obligations.WordWithoutItsOperationStops := by
  intro ch t nd tag raw s htr
  refine ⟨?_, ?_, ?_, ?_⟩
  · simp only [exec, execCmdword, htr]
  · simp only [exec, execVsample, htr]
  · simp only [exec, execVsampleInvalid, htr]
  · simp only [exec, execTsample, htr]

/-! ### The two forms of a read and their ends -/

/-- R71: past its phase check and with a channel enabled, RDV is one read of `2*N` bytes. -/
theorem exec_rdv_eq_startRead {s : State} (hready : s.phase = .ready) (hN : 0 < popcount8 s.chanEn) :
    exec .rdv s = .next (startRead .voltage (2 * popcount8 s.chanEn) s) := by
  simp [exec, execRdv, hready, hN.ne']

/-- R78: past its phase check and its gate, RDT is one read of two bytes. -/
theorem exec_rdt_eq_startRead {s : State} (hready : s.phase = .ready) (htemp : s.tempEn = true) :
    exec .rdt s = .next (startRead .temperature 2 s) := by
  simp [exec, execRdt, hready, htemp]

/-- What issuing a transaction writes, with the test for an exhausted script as a proposition (log 6). -/
theorem issue_eq (tr : Transaction) (s : State) :
    issue tr s = { s with
      bus := s.bus ++ [tr]
      answers := s.answers.tail
      draws := if s.answers = [] then s.draws + 1 else s.draws } := by
  simp [issue]

/-- R31, first form: a combined read that succeeds delivers its bytes at once. -/
theorem startRead_combined {reg : ResultReg} {received : Nat} {bytes : List Byte} {s : State}
    (hform : s.params.combinedRead = true) (hok : busResult received s = .ok bytes) :
    startRead reg received s = deliver reg bytes (issue (.read s.devAddr reg.address received) s) := by
  simp [startRead, hform, hok, finishRead]

/-- R31, second form: once the register byte is written, the data phase is next. -/
theorem startRead_split {reg : ResultReg} {received : Nat} {sent : List Byte} {s : State}
    (hform : s.params.combinedRead = false) (hok : busResult 0 s = .ok sent) :
    startRead reg received s =
      { issue (.write s.devAddr [reg.address]) s with
        transfer := some (.awaitData reg received) } := by
  simp [startRead, hform, hok, finishAddressPhase]

/-- R31: a data phase that succeeds delivers its bytes. -/
theorem readDataPhase_ok {reg : ResultReg} {received : Nat} {bytes : List Byte} {s : State}
    (hok : busResult received s = .ok bytes) :
    readDataPhase reg received s = deliver reg bytes (issue (.readData s.devAddr received) s) := by
  simp [readDataPhase, hok, finishRead]

/-- R88: a first transaction that fails is the only one of its read, in either form. -/
theorem startRead_failed {reg : ResultReg} {received : Nat} {e : ErrorValue} {s : State}
    (hfail : busResult (if s.params.combinedRead then received else 0) s = .error e) :
    ∃ tr, startRead reg received s = raise (.transport e) (issue tr s) := by
  cases hform : s.params.combinedRead with
  | true =>
    rw [hform, if_pos rfl] at hfail
    exact ⟨.read s.devAddr reg.address received, by simp [startRead, hform, hfail, finishRead]⟩
  | false =>
    rw [hform, if_neg Bool.false_ne_true] at hfail
    exact ⟨.write s.devAddr [reg.address], by simp [startRead, hform, hfail, finishAddressPhase]⟩

/-- R67, R88: what the host and the bus see of a failed read. -/
theorem startRead_failed_answer {reg : ResultReg} {received : Nat} {e : ErrorValue} {s : State}
    (hfail : busResult (if s.params.combinedRead then received else 0) s = .error e) :
    (startRead reg received s).responses = s.responses ++ [.error (.transport e)] ∧
      (startRead reg received s).k = s.k + 1 ∧ (startRead reg received s).record = s.record ∧
      (startRead reg received s).transfer = none ∧
      (startRead reg received s).bus = s.bus ++ [if s.params.combinedRead then
        .read s.devAddr reg.address received else .write s.devAddr [reg.address]] := by
  obtain ⟨⟨hrecord, -⟩, hbus, -⟩ := startRead_keeps reg received s
  obtain ⟨tr, hraise⟩ := startRead_failed (reg := reg) hfail
  exact ⟨by simp [hraise], by simp [hraise], hrecord, by simp [hraise], hbus⟩

/-- R61: `2*N` bytes with `N > 0` have a first pair and `N - 1` after it. -/
theorem pairsOf_eq_cons {n : Nat} {bytes : List Byte} (hn : 0 < n) (hlen : bytes.length = 2 * n) :
    ∃ pair rest, pairsOf bytes = pair :: rest ∧ rest.length + 1 = n := by
  have hcount := pairsOf_length n bytes hlen
  cases hpairs : pairsOf bytes with
  | nil => exact absurd (hcount.symm.trans (congrArg List.length hpairs)) hn.ne'
  | cons pair rest => exact ⟨pair, rest, rfl, by simpa [hpairs] using hcount⟩

/-- Settles O26: the bytes delivered are `2*N`, so the burst begins at a first pair. -/
theorem rdvReadsTwoBytesPerChannel : Obligations.RdvReadsTwoBytesPerChannel := by
  intro bytes s hready hN hform hok
  obtain ⟨pair, rest, hpairs, hrest⟩ := pairsOf_eq_cons hN (busResult_length hok)
  refine ⟨pair, rest, hpairs, hrest, ?_⟩
  rw [exec_rdv_eq_startRead hready hN, startRead_combined hform hok, deliver_voltage_cons hpairs,
    issue_eq]
  rfl

/-- Settles O33: the bytes delivered are two, and they are the pair. -/
theorem rdtReadsTwoBytes : Obligations.RdtReadsTwoBytes := by
  intro bytes s hready htemp hform hok
  obtain ⟨hi, lo, rfl⟩ := List.length_eq_two.mp (busResult_length hok)
  refine ⟨hi, lo, rfl, ?_⟩
  rw [exec_rdt_eq_startRead hready htemp, startRead_combined hform hok, issue_eq]
  rfl

/-- Settles O27: in either form the failed transaction is the read's first and last. -/
theorem failedReadIsTransportError : Obligations.FailedReadIsTransportError := by
  intro e s hready
  constructor
  · intro hN hfail
    exact ⟨_, exec_rdv_eq_startRead hready hN, startRead_failed_answer (reg := .voltage) hfail⟩
  · intro htemp hfail
    exact ⟨_, exec_rdt_eq_startRead hready htemp, startRead_failed_answer (reg := .temperature) hfail⟩

/-- Settles O28: the address phase leaves the read awaiting its data, and the next step is its data
phase. -/
theorem splitReadIsTwoTransactions : Obligations.SplitReadIsTwoTransactions := by
  intro sent bytes s hready hform hsent
  constructor
  · intro hN
    refine ⟨_, exec_rdv_eq_startRead hready hN, ?_⟩
    rw [startRead_split hform hsent]
    refine ⟨rfl, fun hok => ?_⟩
    obtain ⟨pair, rest, hpairs, -⟩ := pairsOf_eq_cons hN (busResult_length hok)
    refine ⟨_, pair, rest, step_readData rfl, hpairs, ?_⟩
    rw [readDataPhase_ok hok, deliver_voltage_cons hpairs]
    exact ⟨rfl, rfl⟩
  · intro htemp
    refine ⟨_, exec_rdt_eq_startRead hready htemp, ?_⟩
    rw [startRead_split hform hsent]
    refine ⟨rfl, fun hok => ⟨_, step_readData rfl, ?_⟩⟩
    rw [readDataPhase_ok hok]
    exact ⟨rfl, rfl⟩

/-! ### What every step does to the host's list and to the bus -/

/-- The command write issues its one frame and leaves the host's list, however it ends (R70). -/
theorem writeCommand_keeps (dev : DevAddr) (ch : ChannelSet) (te nd : Bool) (s : State) :
    (writeCommand dev ch te nd s).pending = s.pending ∧
      (writeCommand dev ch te nd s).bus = s.bus ++ [.write dev (commandFrame ch te nd)] := by
  rcases writeCommand_cases dev ch te nd s with ⟨_, _, hw⟩ | ⟨_, _, hw⟩ <;> simp [hw]

/-- R38: only a request's step and a reset take from the host's list. -/
theorem step_pending_of_busy {s t : State} (hbusy : ¬ Quiet s) (hreset : nextEvent s ≠ .reset)
    (hst : step s = .next t) : t.pending = s.pending := by
  rcases step_cases s with
    ⟨dev, ch, te, nd, _, hs⟩ | ⟨reg, received, _, hs⟩ | ⟨index, pair, more, out, _, hs⟩ |
    ⟨hi, lo, _, _, hs⟩ | ⟨hi, lo, _, _, hs⟩ | ⟨_, _, _, hs⟩ | ⟨_, hev, _⟩ | ⟨htr, hphase, _⟩ |
    ⟨htr, hphase, _⟩
  · cases hs.symm.trans hst
    obtain ⟨hkept, -⟩ := writeCommand_keeps dev ch te nd s
    exact hkept
  · cases hs.symm.trans hst
    obtain ⟨⟨-, -, -, hkept⟩, -⟩ := readDataPhase_keeps reg received s
    exact hkept
  · cases hs.symm.trans hst
    obtain ⟨⟨-, -, -, hkept⟩, -⟩ :=
      receiveVoltagePair_keeps (pairTag pair.1) (pairRaw pair.1 pair.2) index more out s
    exact hkept
  · cases hs.symm.trans hst
    rfl
  · cases hs.symm.trans hst
    rfl
  · cases hs.symm.trans hst
    rfl
  · exact absurd hev hreset
  · exact absurd ⟨htr, hphase⟩ hbusy
  · exact absurd ⟨htr, hphase⟩ hbusy

/-- Settles O46: with a request at the head of the list no reset is taken either. -/
theorem secondRequestIsHeld : Obligations.SecondRequestIsHeld := by
  intro r rest s t hbusy hpend hst
  exact step_pending_of_busy hbusy (nextEvent_ne_reset_of_request hpend) hst

/-- R35: a request's step issues nothing, or the first transaction of a read whose conditions hold. -/
theorem step_request_bus {r : Request} {rest : List Stimulus} {s t : State} (hq : Quiet s)
    (hpend : s.pending = .request r :: rest) (hst : step s = .next t) :
    t.bus = s.bus ∨
    (∃ reg received, transferOk s (some (.awaitData reg received)) ∧
      t.bus = s.bus ++ [if s.params.combinedRead then .read s.devAddr reg.address received
        else .write s.devAddr [reg.address]]) := by
  obtain ⟨u, rfl, hu⟩ := step_request_cases hq hpend hst
  rcases hu with ⟨ch, te, nd, addr, rfl⟩ | ⟨_, _, rfl⟩ | ⟨hready, hN, rfl⟩ | ⟨hready, htemp, rfl⟩ |
    ⟨e, rfl⟩
  · obtain ⟨-, hbus, -⟩ := startConfigure_keeps ch te nd addr { s with pending := rest }
    exact .inl hbus
  · exact .inl rfl
  · obtain ⟨-, hbus, -⟩ :=
      startRead_keeps .voltage (2 * popcount8 s.chanEn) { s with pending := rest }
    exact .inr ⟨.voltage, _, ⟨hready, rfl, hN⟩, hbus⟩
  · obtain ⟨-, hbus, -⟩ := startRead_keeps .temperature 2 { s with pending := rest }
    exact .inr ⟨.temperature, _, ⟨hready, rfl, htemp⟩, hbus⟩
  · exact .inl rfl

/-- R30, R31, R35: each transaction is the command write or the data phase in flight, or the first of a
read that a request begins. -/
theorem step_bus_cases {s t : State} (hst : step s = .next t) :
    t.bus = s.bus ∨
    (∃ dev ch te nd, s.transfer = some (.command dev ch te nd) ∧
      t.bus = s.bus ++ [.write dev (commandFrame ch te nd)]) ∨
    (∃ reg received, s.transfer = some (.awaitData reg received) ∧
      t.bus = s.bus ++ [.readData s.devAddr received]) ∨
    (s.transfer = none ∧ ∃ reg received, transferOk s (some (.awaitData reg received)) ∧
      t.bus = s.bus ++ [if s.params.combinedRead then .read s.devAddr reg.address received
        else .write s.devAddr [reg.address]]) := by
  rcases step_cases s with
    ⟨dev, ch, te, nd, htr, hs⟩ | ⟨reg, received, htr, hs⟩ | ⟨index, pair, more, out, _, hs⟩ |
    ⟨hi, lo, _, _, hs⟩ | ⟨hi, lo, _, _, hs⟩ | ⟨_, _, _, hs⟩ | ⟨_, _, hs⟩ | ⟨_, _, _, hs⟩ |
    ⟨htr, hphase, r, rest, hpend, _⟩
  · cases hs.symm.trans hst
    obtain ⟨-, hbus⟩ := writeCommand_keeps dev ch te nd s
    exact .inr <| .inl ⟨dev, ch, te, nd, htr, hbus⟩
  · cases hs.symm.trans hst
    obtain ⟨-, hbus, -⟩ := readDataPhase_keeps reg received s
    exact .inr <| .inr <| .inl ⟨reg, received, htr, hbus⟩
  · cases hs.symm.trans hst
    obtain ⟨-, hbus, -⟩ :=
      receiveVoltagePair_keeps (pairTag pair.1) (pairRaw pair.1 pair.2) index more out s
    exact .inl hbus
  · cases hs.symm.trans hst
    exact .inl rfl
  · cases hs.symm.trans hst
    exact .inl rfl
  · cases hs.symm.trans hst
    exact .inl rfl
  · cases hs.symm.trans hst
    exact .inl rfl
  · cases hs.symm.trans hst
    exact .inl rfl
  · rcases step_request_bus ⟨htr, hphase⟩ hpend hst with hbus | hread
    · exact .inl hbus
    · exact .inr <| .inr <| .inr ⟨htr, hread⟩

/-- Settles O48: the invariant ties the count a data phase asks for to its register, and the form of a read
decides what its first transaction is. -/
theorem onlyTheListedTransactionsAreIssued : Obligations.OnlyTheListedTransactionsAreIssued := by
  intro s t hinv hst
  rcases step_bus_cases hst with hbus | ⟨dev, ch, te, nd, htr, hbus⟩ | ⟨reg, received, htr, hbus⟩ |
    ⟨htr, reg, received, hread, hbus⟩
  · exact .inl hbus
  · exact .inr <| .inl ⟨dev, ch, te, nd, htr, hbus⟩
  · have hread : transferOk s (some (.awaitData reg received)) := htr ▸ hinv.transfer
    refine .inr <| .inr <| .inr <| .inr ?_
    cases reg with
    | voltage =>
      obtain ⟨hready, rfl, -⟩ := hread
      exact ⟨hready, .inl ⟨htr, hbus⟩⟩
    | temperature =>
      obtain ⟨hready, rfl, -⟩ := hread
      exact ⟨hready, .inr ⟨htr, hbus⟩⟩
  · cases hform : s.params.combinedRead with
    | true =>
      rw [hform, if_pos rfl] at hbus
      refine .inr <| .inr <| .inl ?_
      cases reg with
      | voltage =>
        obtain ⟨hready, rfl, hN⟩ := hread
        exact ⟨hready, rfl, .inl ⟨hN, hbus⟩⟩
      | temperature =>
        obtain ⟨hready, rfl, htemp⟩ := hread
        exact ⟨hready, rfl, .inr ⟨htemp, hbus⟩⟩
    | false =>
      rw [hform, if_neg Bool.false_ne_true] at hbus
      refine .inr <| .inr <| .inr <| .inl ?_
      cases reg with
      | voltage =>
        obtain ⟨hready, rfl, hN⟩ := hread
        exact ⟨hready, rfl, htr, .inl ⟨hN, hbus⟩⟩
      | temperature =>
        obtain ⟨hready, rfl, htemp⟩ := hread
        exact ⟨hready, rfl, htr, .inr ⟨htemp, hbus⟩⟩

end Sys2Proof.Proofs
end

section
/-! THEOREMS. The encoding family (30_encoding.md): the bits of the command word and of the conversion pair
(R47 to R60), the decoder and the encoder beside each other (R43 to R63), the transcriber's lines (R46), and
the steps of CFG, CFGW and CMDWORD (R64 to R70, R92). -/

namespace Sys2Proof.Proofs

open Sys2Proof.Machine

/-! ### The low byte: channel flags, mirrored -/

/-- R52: the bit rule of the membership decoder. -/
@[simp] theorem decodeMembership_getElem (b : Byte) (i : Fin 8) :
    (decodeMembership b)[i] = b.getLsbD (7 - i.val) := by
  simp [decodeMembership]

/-- R49: `1 << (7-i)` has the one bit `7-i`. -/
theorem getLsbD_channelBit (i j : Fin 8) :
    (1#8 <<< (7 - i.val)).getLsbD (7 - j.val) = decide (i = j) := by
  revert i j; decide

/-- R49: OR-ing the flags of a list of channels sets the mirrored bit of each enabled channel listed. -/
theorem getLsbD_foldl_channelBits (ch : ChannelSet) (j : Fin 8) (l : List (Fin 8)) (acc : Byte) :
    (l.foldl (fun acc i => if ch[i] then acc ||| (1#8 <<< (7 - i.val)) else acc) acc).getLsbD
        (7 - j.val) =
      (acc.getLsbD (7 - j.val) || l.any fun i => ch[i] && decide (i = j)) := by
  induction l generalizing acc with
  | nil => simp
  | cons i l ih =>
    rw [List.foldl_cons, ih, List.any_cons, ← Bool.or_assoc]
    congr 1
    cases ch[i] with
    | false => simp
    | true => rw [if_pos rfl, BitVec.getLsbD_or, getLsbD_channelBit, Bool.true_and]

/-- R49: bit `7-i` of the low byte is channel `i`. -/
@[simp] theorem encodeLow_getLsbD (ch : ChannelSet) (i : Fin 8) :
    (encodeLow ch).getLsbD (7 - i.val) = ch[i] := by
  rw [encodeLow, getLsbD_foldl_channelBits, Bool.eq_iff_iff]
  simp

/-- The mirrored indices reach every bit of a byte. -/
theorem byte_ext {a b : Byte} (h : ∀ i : Fin 8, a.getLsbD (7 - i.val) = b.getLsbD (7 - i.val)) :
    a = b := by
  apply BitVec.eq_of_getLsbD_eq
  intro j hj
  simpa [show 7 - (7 - j) = j by omega] using h ⟨7 - j, by omega⟩

@[simp] theorem encodeLow_decodeMembership (b : Byte) : encodeLow (decodeMembership b) = b :=
  byte_ext fun i => by rw [encodeLow_getLsbD, decodeMembership_getElem]

@[simp] theorem decodeMembership_encodeLow (ch : ChannelSet) :
    decodeMembership (encodeLow ch) = ch := by
  apply Vector.ext
  intro i hi
  exact (decodeMembership_getElem _ ⟨i, hi⟩).trans (encodeLow_getLsbD ch ⟨i, hi⟩)

/-- Settles O6: both functions move a flag between index `i` and bit `7-i`. -/
theorem membershipAndLowByteAreInverse : Obligations.MembershipAndLowByteAreInverse :=
  ⟨decodeMembership_getElem, encodeLow_decodeMembership, decodeMembership_encodeLow⟩

/-- R53: the count of a ChannelSet runs over its indices. -/
theorem popcount8_eq_length_filter (ch : ChannelSet) :
    popcount8 ch = ((List.finRange 8).filter fun i => ch[i]).length := by
  have hflags : ch.toList = (List.finRange 8).map fun i => ch[i] := by
    apply List.ext_getElem <;> simp
  rw [popcount8, ← Vector.count_toList, hflags, List.count, List.countP_map,
    ← List.countP_eq_length_filter]
  simp [Function.comp_def]

/-- Bit positions in order are the channels in reverse order. -/
theorem range_eight_eq_mirrored :
    List.range 8 = (List.finRange 8).reverse.map fun i => 7 - i.val := by decide

/-- Settles O8: reading the byte's bits is reading the flags in reverse order. -/
theorem activeCountIsOneBitsOfLowByte : Obligations.ActiveCountIsOneBitsOfLowByte := by
  intro ch
  refine ⟨?_, popcount8_eq_length_filter ch, Vector.count_le_size⟩
  rw [range_eight_eq_mirrored, List.filter_map, List.length_map, List.filter_reverse,
    List.length_reverse, popcount8_eq_length_filter]
  simp only [Function.comp_def, encodeLow_getLsbD]

/-! ### The command word -/

/-- R48: the high byte's bits. -/
theorem encodeHigh_getLsbD (t nd : Bool) (j : Nat) :
    (encodeHigh t nd).getLsbD j = (decide (j = 7) && t || decide (j = 3) && nd) := by
  have hbyte : ∀ k < 8,
      (encodeHigh t nd).getLsbD k = (decide (k = 7) && t || decide (k = 3) && nd) := by
    revert t nd; decide
  by_cases hj : j < 8
  · exact hbyte j hj
  · rw [BitVec.getLsbD_of_ge _ _ (not_lt.mp hj)]
    simp [show j ≠ 7 by omega, show j ≠ 3 by omega]

/-- R50: bits 7:0 of the command word are the low byte. -/
theorem encodeCmd_getLsbD_low (ch : ChannelSet) (t nd : Bool) {j : Nat} (hj : j < 8) :
    (encodeCmd ch t nd).getLsbD j = (encodeLow ch).getLsbD j := by
  rw [encodeCmd, BitVec.getLsbD_append, if_pos hj]

/-- R50: bits 15:8 of the command word are T, ND and the reserved ones. -/
theorem encodeCmd_getLsbD_high (ch : ChannelSet) (t nd : Bool) {j : Nat} (hj : 8 ≤ j) :
    (encodeCmd ch t nd).getLsbD j = (decide (j = 15) && t || decide (j = 11) && nd) := by
  rw [encodeCmd, BitVec.getLsbD_append, if_neg (not_lt.mpr hj), encodeHigh_getLsbD]
  simp only [show j - 8 = 7 ↔ j = 15 by omega, show j - 8 = 3 ↔ j = 11 by omega]

theorem encodeCmd_getLsbD_t (ch : ChannelSet) (t nd : Bool) :
    (encodeCmd ch t nd).getLsbD 15 = t := by
  rw [encodeCmd_getLsbD_high ch t nd (by decide)]
  simp

theorem encodeCmd_getLsbD_nd (ch : ChannelSet) (t nd : Bool) :
    (encodeCmd ch t nd).getLsbD 11 = nd := by
  rw [encodeCmd_getLsbD_high ch t nd (by decide)]
  simp

/-- Settles O7: the word is the high byte above the low byte. -/
theorem commandWordHasTheLayoutOfTheSpec : Obligations.CommandWordHasTheLayoutOfTheSpec := by
  intro ch t nd
  refine ⟨encodeCmd_getLsbD_t ch t nd, encodeCmd_getLsbD_nd ch t nd, ?_, ?_⟩
  · intro i
    rw [encodeCmd_getLsbD_low ch t nd (by omega), encodeLow_getLsbD]
  · intro j hj
    rw [encodeCmd_getLsbD_high ch t nd (by omega)]
    simp [show j ≠ 15 by omega, show j ≠ 11 by omega]

/-- R47: the mask's bits are the reserved ones. -/
theorem reservedCommandMask_getLsbD (j : Nat) :
    reservedCommandMask.getLsbD j = true ↔ (12 ≤ j ∧ j ≤ 14) ∨ (8 ≤ j ∧ j ≤ 10) := by
  have hword : ∀ k < 16,
      reservedCommandMask.getLsbD k = true ↔ (12 ≤ k ∧ k ≤ 14) ∨ (8 ≤ k ∧ k ≤ 10) := by decide
  by_cases hj : j < 16
  · exact hword j hj
  · rw [BitVec.getLsbD_of_ge _ _ (not_lt.mp hj)]
    simp only [Bool.false_eq_true, false_iff]
    omega

/-- R46, R47: a word meets the mask in 0 exactly when its reserved bits are 0. -/
theorem and_reservedCommandMask_eq_zero_iff (w : Word16) :
    w &&& reservedCommandMask = 0#16 ↔
      ∀ j, (12 ≤ j ∧ j ≤ 14) ∨ (8 ≤ j ∧ j ≤ 10) → w.getLsbD j = false := by
  constructor
  · intro hmask j hj
    have hbit : (w &&& reservedCommandMask).getLsbD j = false := by simp [hmask]
    simpa [(reservedCommandMask_getLsbD j).2 hj] using hbit
  · intro hzero
    apply BitVec.eq_of_getLsbD_eq
    intro j _
    by_cases hj : reservedCommandMask.getLsbD j = true
    · simp [hzero j ((reservedCommandMask_getLsbD j).1 hj)]
    · simp [hj]

/-- R47, R52: a command word is read back as the fields it was built from. -/
@[simp] theorem commandFields_encodeCmd (ch : ChannelSet) (t nd : Bool) :
    commandFields (encodeCmd ch t nd) = (ch, t, nd) := by
  have hlow : (encodeCmd ch t nd).extractLsb' 0 8 = encodeLow ch :=
    BitVec.extractLsb'_append_eq_right
  rw [commandFields, hlow, decodeMembership_encodeLow, encodeCmd_getLsbD_t, encodeCmd_getLsbD_nd]

/-- R46, R47: a word whose reserved bits are 0 is built from the fields read from it. -/
theorem encodeCmd_commandFields {w : Word16} (hw : w &&& reservedCommandMask = 0#16) :
    encodeCmd (commandFields w).1 (commandFields w).2.1 (commandFields w).2.2 = w := by
  rw [and_reservedCommandMask_eq_zero_iff] at hw
  apply BitVec.eq_of_getLsbD_eq
  intro j hj
  by_cases hlow : j < 8
  · rw [encodeCmd_getLsbD_low _ _ _ hlow]
    simp [commandFields, hlow]
  · rw [encodeCmd_getLsbD_high _ _ _ (not_lt.mp hlow)]
    by_cases h15 : j = 15
    · simp [commandFields, h15]
    by_cases h11 : j = 11
    · simp [commandFields, h11]
    · simp [h15, h11, hw j (by omega)]

/-! ### The conversion pair -/

/-- R57: a pair is rebuilt from its tag and its datum. -/
@[simp] theorem encodePair_pairTag_pairRaw (hi lo : Byte) :
    encodePair (pairTag hi) (pairRaw hi lo) = (hi, lo) := by
  apply Prod.ext
  · apply BitVec.eq_of_getLsbD_eq
    intro j hj
    simp only [encodePair, pairTag, pairRaw, BitVec.getLsbD_append, BitVec.getLsbD_extractLsb']
    by_cases h4 : j < 4
    · simp [h4]
    · simp [h4, show j - 4 < 4 by omega, show 4 + (j - 4) = j by omega]
  · exact BitVec.extractLsb'_append_eq_right

/-- Settles O9: a 4-bit mask and a shift are taking the high and the low half of a byte. -/
theorem pairFieldsAreTagAndDatum : Obligations.PairFieldsAreTagAndDatum := by
  intro hi lo
  have hmask (n : Nat) : n &&& 0xF = n % 2 ^ 4 := Nat.and_two_pow_sub_one_eq_mod n 4
  constructor
  · simp [decodePair, pairTag, hmask]
  · rw [decodePair, pairRaw, BitVec.toNat_append, BitVec.extractLsb'_toNat, hmask, Nat.shiftRight_zero]

/-- R60, R81: `sext12` reads the datum in two's complement. -/
theorem sext12_eq_toInt (raw : Datum) : sext12 raw = raw.toInt := by
  have hraw : raw.toNat < 4096 := raw.isLt
  simp only [sext12, BitVec.toInt_eq_toNat_cond]
  split <;> split <;> omega

/-- Settles O13: two's complement in 12 bits is one-to-one onto −2^11 .. 2^11 − 1. -/
theorem temperatureRangeIsCoveredOnce : Obligations.TemperatureRangeIsCoveredOnce := by
  simp only [Obligations.TemperatureRangeIsCoveredOnce, sext12_eq_toInt]
  constructor
  · intro raw
    have hlow : -2 ^ 11 ≤ raw.toInt := BitVec.le_toInt raw
    have hhigh : raw.toInt < 2 ^ 11 := BitVec.toInt_lt
    omega
  · intro q hlow hhigh
    have hq : (BitVec.ofInt 12 q).toInt = q :=
      BitVec.toInt_ofInt_eq_self (by decide) (by omega) (by omega)
    exact ⟨BitVec.ofInt 12 q, hq, fun raw' h => BitVec.eq_of_toInt_eq (h.trans hq.symm)⟩

/-! ### The decoder and the encoder -/

/-- R43, R45: op 0x00 is CFG with the record's operands. -/
theorem decode_request_cfg {r : Request} (hop : r.op = opCfg) :
    decode (.request r) = .instr (.cfg r.ch r.t r.nd (r.addr.getD devAddrDefault)) := by
  simp [decode, decodeRequest, hop]

/-- R47: a word in the command layout is the CMDWORD of its fields when its reserved bits are 0, and no
instruction otherwise. -/
theorem decode_command_eq_instr_iff {w : Word16} {i : Instr} :
    decode (.command w) = .instr i ↔ w &&& reservedCommandMask = 0#16 ∧
      i = .cmdword (commandFields w).1 (commandFields w).2.1 (commandFields w).2.2 := by
  by_cases hw : w &&& reservedCommandMask = 0#16
  · simp [decode, decodeCommand, hw, eq_comm]
  · simp [decode, decodeCommand, hw]

/-- R58: the tag alone says which of the two rows a pair of register 0x01 is. -/
theorem decode_voltagePair_eq_instr_iff {hi lo : Byte} {i : Instr} :
    decode (.voltagePair hi lo) = .instr i ↔
      (pairTag hi).toNat < 8 ∧ i = .vsample (pairTag hi) (pairRaw hi lo) ∨
      8 ≤ (pairTag hi).toNat ∧ i = .vsampleInvalid (pairTag hi) (pairRaw hi lo) := by
  by_cases htag : (pairTag hi).toNat < 8
  · simp [decode, decodeVoltagePair, htag, eq_comm]
  · simp [decode, decodeVoltagePair, htag, not_lt.mp htag, eq_comm]

/-- R59: a pair of register 0x02 is a TSAMPLE when its tag is 8, and no instruction otherwise. -/
theorem decode_temperaturePair_eq_instr_iff {hi lo : Byte} {i : Instr} :
    decode (.temperaturePair hi lo) = .instr i ↔
      pairTag hi = tempTag ∧ i = .tsample (pairRaw hi lo) := by
  by_cases htag : pairTag hi = tempTag
  · simp [decode, decodeTemperaturePair, htag, eq_comm]
  · simp [decode, decodeTemperaturePair, htag]

/-- Settles O1: the decoder reads back each field the encoder wrote; for the two voltage rows,
well-formedness says that the tag is on the side of 8 its row is on. -/
theorem decodeOfEncodeIsTheInstruction : Obligations.DecodeOfEncodeIsTheInstruction := by
  intro i hwf
  cases i with
  | cfg ch t nd addr => exact decode_request_cfg rfl
  | rdv => rfl
  | rdt => rfl
  | cfgw w addr => exact decode_request_cfg rfl
  | cmdword ch t nd =>
    refine decode_command_eq_instr_iff.2 ⟨Laws.encodeCmd_reserved ch t nd, ?_⟩
    simp [Instr.core]
  | vsample tag raw =>
    have htag : tag.toNat < 8 := of_decide_eq_true hwf
    refine decode_voltagePair_eq_instr_iff.2 (.inl ?_)
    simp [htag, Instr.core]
  | vsampleInvalid tag raw =>
    have htag : 8 ≤ tag.toNat := of_decide_eq_true hwf
    refine decode_voltagePair_eq_instr_iff.2 (.inr ?_)
    simp [htag, Instr.core]
  | tsample raw =>
    refine decode_temperaturePair_eq_instr_iff.2 ?_
    simp [Instr.core]

/-- Settles O2: an accepted pair or word has no bit outside the fields that are read from it. -/
theorem encodeOfDecodeIsTheWord : Obligations.EncodeOfDecodeIsTheWord := by
  refine ⟨?_, ?_, ?_⟩
  · intro hi lo i hdec
    rcases decode_voltagePair_eq_instr_iff.1 hdec with ⟨_, rfl⟩ | ⟨_, rfl⟩ <;> simp [encode]
  · intro hi lo i hdec
    obtain ⟨htag, rfl⟩ := decode_temperaturePair_eq_instr_iff.1 hdec
    simp [encode, ← htag]
  · intro w i hdec
    obtain ⟨hw, rfl⟩ := decode_command_eq_instr_iff.1 hdec
    rw [encode, encodeCmd_commandFields hw]

/-- Settles O4: each word is evaluated. -/
theorem specWordsDecodeAsWritten : Obligations.SpecWordsDecodeAsWritten := by
  unfold Obligations.SpecWordsDecodeAsWritten
  decide

/-- Settles O5: the three codes are distinct, so the chain of tests reaches the right one. -/
theorem requestDecodingIsTotalOnOpCodes : Obligations.RequestDecodingIsTotalOnOpCodes := by
  intro r
  refine ⟨decode_request_cfg, ?_, ?_, ?_⟩
  · intro hop
    simp [decode, decodeRequest, hop, opCfg, opRdv]
  · intro hop
    simp [decode, decodeRequest, hop, opCfg, opRdv, opRdt]
  · intro hop
    rcases decodeRequest_cases r with ⟨h, _⟩ | ⟨h, _⟩ | ⟨h, _⟩ | ⟨_, hreject⟩
    · simp [h, opCfg] at hop
    · simp [h, opRdv] at hop
    · simp [h, opRdt] at hop
    · exact hreject

/-! ### CFGW -/

/-- R46: with its reserved bits 0, CFGW runs as the CFG of its word's fields. -/
theorem exec_cfgw_accepted {w : Word16} (hw : w &&& reservedCommandMask = 0#16) (addr : DevAddr)
    (s : State) : exec (.cfgw w addr) s = exec (expandCfgw w addr) s := by
  simp [exec, execCfgw, hw, expandCfgw, execCfg]

/-- R46, I1: with a reserved bit set, CFGW is refused by name. -/
theorem exec_cfgw_refused {w : Word16} (hw : w &&& reservedCommandMask ≠ 0#16) (addr : DevAddr)
    (s : State) : exec (.cfgw w addr) s = .refused (.transcriberRefused w) := by
  simp [exec, execCfgw, hw]

/-- Settles O14: an accepted word is its fields and nothing more. -/
theorem cfgwRunsAsItsExpansion : Obligations.CfgwRunsAsItsExpansion := by
  intro w addr hwf
  have hw : w &&& reservedCommandMask = 0#16 := by simpa [Instr.wellFormed] using hwf
  exact ⟨encodeCmd_commandFields hw, exec_cfgw_accepted hw addr⟩

/-- Settles O15: the mask meets the word exactly in the reserved bits that are set. -/
theorem cfgwWithReservedBitIsRefused : Obligations.CfgwWithReservedBitIsRefused := by
  intro w addr s
  by_cases hw : w &&& reservedCommandMask = 0#16
  · have hzero := (and_reservedCommandMask_eq_zero_iff w).1 hw
    rw [exec_cfgw_accepted hw]
    constructor
    · rintro ⟨j, hj, hset⟩
      exact absurd hset (by simp [hzero j hj])
    · intro hrefused
      cases hrefused
  · refine iff_of_true ?_ (exec_cfgw_refused hw addr s)
    by_contra hnone
    refine hw ((and_reservedCommandMask_eq_zero_iff w).2 fun j hj => ?_)
    exact Bool.eq_false_iff.2 fun hset => hnone ⟨j, hj, hset⟩

/-! ### The transcriber's lines -/

/-- R46: an address operand that is omitted or has 7 bits is read as its value. -/
theorem addrOperand_eq_some_iff {addr : Option Nat} {a : Option DevAddr} :
    addrOperand addr = some a ↔ a.map BitVec.toNat = addr := by
  cases addr with
  | none => cases a <;> simp [addrOperand]
  | some n =>
    simp only [addrOperand]
    cases a with
    | none => split <;> simp
    | some d =>
      have hd : d.toNat < 128 := d.isLt
      by_cases hn : n < 128
      · simp only [if_pos hn, Option.some.injEq, Option.map_some, ← BitVec.toNat_inj,
          BitVec.toNat_ofNat]
        omega
      · simp only [if_neg hn, Option.map_some, Option.some.injEq, reduceCtorEq, false_iff]
        omega

/-- R46: an address operand is refused exactly when it has more than 7 bits. -/
theorem addrOperand_eq_none_iff {addr : Option Nat} :
    addrOperand addr = none ↔ ∃ a, addr = some a ∧ 128 ≤ a := by
  cases addr <;> simp [addrOperand]

/-- Settles O16: the reserved bits are checked, so the fields hold the whole word. -/
theorem transcribedCfgwBuildsItsWord : Obligations.TranscribedCfgwBuildsItsWord := by
  intro w addr r hline
  by_cases hw : w < 65536 ∧ BitVec.ofNat 16 w &&& reservedCommandMask = 0#16
  · simp only [transcribe, if_pos hw, Option.map_eq_some_iff] at hline
    obtain ⟨a, ha, rfl⟩ := hline
    obtain ⟨hwidth, hreserved⟩ := hw
    refine ⟨rfl, ?_, addrOperand_eq_some_iff.1 ha⟩
    rw [encodeCmd_commandFields hreserved, BitVec.toNat_ofNat, Nat.mod_eq_of_lt hwidth]
  · simp [transcribe, hw] at hline

/-- R46: a channel's flag is set exactly when its index is listed. -/
theorem channelsOf_getElem (indices : List Nat) (i : Fin 8) :
    (channelsOf indices)[i] = true ↔ i.val ∈ indices := by
  simp [channelsOf]

/-- Settles O17: the two checks of the line are those of the indices and of the address. -/
theorem transcribedCfgHasItsChannels : Obligations.TranscribedCfgHasItsChannels := by
  intro channels t nd addr
  constructor
  · intro hrange hnodup haddr
    have haccepted : addrOperand addr ≠ none := by
      rw [Ne, addrOperand_eq_none_iff]
      rintro ⟨a, ha, hwide⟩
      exact absurd (haddr a ha) (not_lt.mpr hwide)
    obtain ⟨a, ha⟩ := Option.ne_none_iff_exists'.1 haccepted
    refine ⟨⟨opCfg, channelsOf channels, t, nd, a⟩, ?_, rfl, channelsOf_getElem channels, rfl, rfl,
      addrOperand_eq_some_iff.1 ha⟩
    have hall : channels.all (· < nch) = true :=
      List.all_eq_true.2 fun i hi => decide_eq_true (hrange i hi)
    simp [transcribe, hall, hnodup, ha]
  · rintro (hrepeated | ⟨i, hi, hlarge⟩ | hwide)
    · simp [transcribe, hrepeated]
    · have hrange : channels.all (· < nch) = false :=
        List.all_eq_false.2 ⟨i, hi, fun h => absurd (of_decide_eq_true h) (not_lt.mpr hlarge)⟩
      simp [transcribe, hrange]
    · simp [transcribe, addrOperand_eq_none_iff.2 hwide]

/-- A comma is not the closing brace, so no mark can be read both ways. -/
theorem comma_ne_closeBrace : ',' ≠ closeBrace := by decide

/-- R46: after an index, the reader takes a comma and one more index. -/
theorem readMoreIndices_comma (cs : List Char) (rest : List Token) (acc : List Nat) :
    readMoreIndices (.mark ',' :: .word cs :: rest) acc =
      (readDec cs).bind fun i => readMoreIndices rest (acc ++ [i]) := by
  cases h : readDec cs <;> simp [readMoreIndices, h]

/-- R46: the closing brace ends the list, whatever follows it. -/
theorem readMoreIndices_closeBrace (rest : List Token) (acc : List Nat) :
    readMoreIndices (.mark closeBrace :: rest) acc = some (acc, rest) := by
  rcases rest with _ | ⟨_ | _, _⟩ <;> simp [readMoreIndices, comma_ne_closeBrace.symm]

/-- R46: a tail of indices in its form is read, index by index. -/
theorem readMoreIndices_listTailTokens {words : List (List Char)} {more : List Nat}
    (hread : words.map readDec = more.map some) (rest : List Token) (acc : List Nat) :
    readMoreIndices (listTailTokens words ++ rest) acc = some (acc ++ more, rest) := by
  induction words generalizing more acc with
  | nil =>
    obtain rfl : more = [] := by simpa using hread.symm
    simp [listTailTokens, readMoreIndices_closeBrace]
  | cons cs words ih =>
    obtain _ | ⟨i, more⟩ := more
    · cases hread
    · obtain ⟨hi, hmore⟩ := List.cons_eq_cons.1 hread
      rw [listTailTokens, List.cons_append, List.cons_append, readMoreIndices_comma, hi,
        Option.bind_some, ih hmore]
      simp

/-- R46: nothing else is read after an index. -/
theorem form_of_readMoreIndices {toks rest : List Token} {acc indices : List Nat}
    (hread : readMoreIndices toks acc = some (indices, rest)) :
    ∃ (words : List (List Char)) (more : List Nat), toks = listTailTokens words ++ rest ∧
      words.map readDec = more.map some ∧ indices = acc ++ more := by
  fun_induction readMoreIndices toks acc with
  | case1 cs toks acc i hi ih =>
    obtain ⟨words, more, rfl, hmore, rfl⟩ := ih hread
    exact ⟨cs :: words, i :: more, rfl, by simp [hi, hmore], by simp⟩
  | case3 | case5 =>
    cases hread
    exact ⟨[], [], rfl, rfl, by simp⟩
  | case2 | case4 | case6 | case7 => cases hread

/-- Settles O59: after the first index, the reader takes exactly the tails of the form. -/
theorem channelListIsReadExactlyInItsForm : Obligations.ChannelListIsReadExactlyInItsForm := by
  intro toks rest indices
  constructor
  · intro hread
    fun_cases readIndices toks with
    | case1 cs toks i hi =>
      rw [readIndices, hi] at hread
      obtain ⟨words, more, rfl, hmore, rfl⟩ := form_of_readMoreIndices hread
      exact ⟨cs :: words, rfl, by simp [hi, hmore]⟩
    | case2 cs toks hi =>
      rw [readIndices, hi] at hread
      cases hread
    | case3 toks =>
      rw [readIndices, if_pos rfl] at hread
      cases hread
      exact ⟨[], rfl, rfl⟩
    | case4 c toks hc =>
      rw [readIndices, if_neg hc] at hread
      cases hread
    | case5 => cases hread
  · rintro ⟨words, rfl, hwords⟩
    match words, indices with
    | [], [] => simp [listTokens, readIndices]
    | cs :: words, i :: more =>
      obtain ⟨hi, hmore⟩ := List.cons_eq_cons.1 hwords
      rw [listTokens, List.cons_append, readIndices, hi]
      exact readMoreIndices_listTailTokens hmore rest [i]
    | [], _ :: _ => cases hwords
    | _ :: _, [] => cases hwords

/-! ### A table word placed for the machine -/

/-- What stands before the machine when it runs what was placed: a request has left the host's list, and
everything else is in flight until it has run (log 20). -/
def placedState : Fetched → State → State
  | .request _, s => readyForRequest s
  | f, s => placeFetched f s

/-- The fields that placing a word does not touch (log 20). -/
def PlacingKeeps (s s' : State) : Prop :=
  s'.chanEn = s.chanEn ∧ s'.tempEn = s.tempEn ∧ s'.ndEn = s.ndEn ∧ s'.devAddr = s.devAddr ∧
    s'.k = s.k ∧ s'.params = s.params ∧ s'.pending = s.pending ∧ s'.answers = s.answers ∧
    s'.responses = s.responses ∧ s'.bus = s.bus ∧
    (s.phase ≠ .settling → s'.phase = s.phase ∧ s'.timer = s.timer)

/-- Making way for a request ends what is in flight and a settle wait, and nothing else. -/
theorem readyForRequest_cases (s : State) :
    (s.phase = .settling ∧
      readyForRequest s = { s with transfer := none, phase := .ready, timer := none }) ∨
    (s.phase ≠ .settling ∧ readyForRequest s = { s with transfer := none }) := by
  by_cases hphase : s.phase = .settling
  · exact .inl ⟨hphase, if_pos hphase⟩
  · exact .inr ⟨hphase, if_neg hphase⟩

theorem placedState_keeps (f : Fetched) (s : State) : PlacingKeeps s (placedState f s) := by
  cases f with
  | request r =>
    rcases readyForRequest_cases s with ⟨hphase, hready⟩ | ⟨_, hready⟩
    · simp [PlacingKeeps, placedState, hready, hphase]
    · simp [PlacingKeeps, placedState, hready]
  | command w => simp [PlacingKeeps, placedState, placeFetched]
  | voltagePair hi lo => simp [PlacingKeeps, placedState, placeFetched]
  | temperaturePair hi lo => simp [PlacingKeeps, placedState, placeFetched]

theorem placeFetched_request_quiet (r : Request) (s : State) :
    Quiet (placeFetched (.request r) s) := by
  rcases readyForRequest_cases s with ⟨_, hready⟩ | ⟨hphase, hready⟩
  · simp [Quiet, placeFetched, hready]
  · simp [Quiet, placeFetched, hready, hphase]

/-- The next step runs what was placed, whichever register or list it was placed for. -/
theorem step_placeFetched {f : Fetched} {i : Instr} (hdec : decode f = .instr i) (s : State) :
    step (placeFetched f s) = exec i (placedState f s) := by
  obtain ⟨hfetch, -⟩ := stepRunsTheDecodedInstruction
  cases f with
  | request r =>
    rw [step_request (placeFetched_request_quiet r s) rfl hdec]
    rcases readyForRequest_cases s with ⟨_, hready⟩ | ⟨_, hready⟩ <;>
      simp [placedState, placeFetched, hready]
  | command w =>
    obtain ⟨_, rfl⟩ := decode_command_eq_instr_iff.1 hdec
    rfl
  | voltagePair hi lo => exact hfetch _ _ _ rfl hdec
  | temperaturePair hi lo => exact hfetch _ _ _ rfl hdec

/-- A table word that is read stands for something fetched that decodes to its instruction. -/
theorem fetched_of_decodeTableWord {nbits w : Nat} {i : Instr}
    (hword : decodeTableWord nbits w = some i) :
    ∃ f, fetchedOfTableWord nbits w = some f ∧ decode f = .instr i := by
  unfold decodeTableWord at hword
  split at hword
  · cases hword
  · rename_i f hfetched
    refine ⟨f, hfetched, ?_⟩
    split at hword
    · cases hword
      assumption
    · cases hword

/-- Settles O43: the word's fetched form says where it is placed and what it decodes to. -/
theorem placedTableWordRunsNext : Obligations.PlacedTableWordRunsNext := by
  intro nbits w i s hword
  obtain ⟨f, hfetched, hdec⟩ := fetched_of_decodeTableWord hword
  have hplaced : s.withFetchWord nbits w = placeFetched f s := by
    simp [State.withFetchWord, hfetched]
  exact ⟨placedState f s, by rw [hplaced, step_placeFetched hdec], placedState_keeps f s⟩

/-! ### The steps of CFG, CFGW and CMDWORD -/

/-- R64: in UNCONFIGURED, a CFG's operands go into flight. -/
theorem startConfigure_unconfigured {s : State} (hphase : s.phase = .unconfigured)
    (ch : ChannelSet) (t nd : Bool) (addr : DevAddr) :
    startConfigure ch t nd addr s = { s with transfer := some (.command addr ch t nd) } :=
  if_pos hphase

/-- R92: in any other phase a CFG is an AlreadyConfigured error. -/
theorem startConfigure_configured {s : State} (hphase : s.phase ≠ .unconfigured)
    (ch : ChannelSet) (t nd : Bool) (addr : DevAddr) :
    startConfigure ch t nd addr s = raise .alreadyConfigured s :=
  if_neg hphase

/-- R46, R64: an accepted CFGW starts the CFG of its word's fields. -/
theorem exec_cfgw_eq_startConfigure {w : Word16} (hw : w &&& reservedCommandMask = 0#16)
    (addr : DevAddr) (s : State) :
    exec (.cfgw w addr) s = .next
      (startConfigure (commandFields w).1 (commandFields w).2.1 (commandFields w).2.2 addr s) :=
  exec_cfgw_accepted hw addr s

/-- Settles O18: past the phase check there is nothing that CFG refuses. -/
theorem cfgAcceptedWhenUnconfigured : Obligations.CfgAcceptedWhenUnconfigured := by
  intro ch t nd w addr s hphase
  refine ⟨congrArg _ (startConfigure_unconfigured hphase ch t nd addr), fun hw => ?_⟩
  rw [exec_cfgw_eq_startConfigure hw, startConfigure_unconfigured hphase]
  rfl

/-- Settles O19: the phase check comes first, for a CFGW as for the CFG it expands to. -/
theorem cfgRefusedOnceConfigured : Obligations.CfgRefusedOnceConfigured := by
  intro ch t nd w addr s hphase hw i hi
  rcases hi with rfl | rfl
  · exact congrArg _ (startConfigure_configured hphase ch t nd addr)
  · rw [exec_cfgw_eq_startConfigure hw, startConfigure_configured hphase]
    rfl

/-- R64, R70: with a CFG in flight, CMDWORD is the command write to its address. -/
theorem exec_cmdword_eq_writeCommand {s : State} {dev : DevAddr} {ch' : ChannelSet} {t' nd' : Bool}
    (htr : s.transfer = some (.command dev ch' t' nd')) (ch : ChannelSet) (t nd : Bool) :
    exec (.cmdword ch t nd) s = .next (writeCommand dev ch t nd s) := by
  simp [exec, execCmdword, htr]

/-- Settles O20: a write that succeeds is followed by the latch in the same step. -/
theorem commandWriteLatchesConfiguration : Obligations.CommandWriteLatchesConfiguration := by
  intro ch t nd dev bytes s htr hok
  rw [exec_cmdword_eq_writeCommand htr, writeCommand, hok, finishCommand, issue_eq]
  rfl

/-- R64: the step of CFG and of CFGW is the start of a CFG. -/
theorem startConfigure_of_exec {i : Instr} {s t : State} (hexec : exec i s = .next t)
    (hi : (∃ ch te nd addr, i = .cfg ch te nd addr) ∨ ∃ w addr, i = .cfgw w addr) :
    ∃ ch te nd addr, t = startConfigure ch te nd addr s := by
  rcases hi with ⟨ch, te, nd, addr, rfl⟩ | ⟨w, addr, rfl⟩
  · cases hexec
    exact ⟨ch, te, nd, addr, rfl⟩
  · by_cases hw : w &&& reservedCommandMask = 0#16
    · rw [exec_cfgw_eq_startConfigure hw] at hexec
      cases hexec
      exact ⟨_, _, _, addr, rfl⟩
    · rw [exec_cfgw_refused hw] at hexec
      cases hexec

/-- The start of a CFG draws no answer: it issues nothing (R64, log 6). -/
theorem startConfigure_answers (ch : ChannelSet) (te nd : Bool) (addr : DevAddr) (s : State) :
    (startConfigure ch te nd addr s).answers = s.answers ∧
      (startConfigure ch te nd addr s).draws = s.draws := by
  by_cases hphase : s.phase = .unconfigured
  · simp [startConfigure_unconfigured hphase]
  · simp [startConfigure_configured hphase]

/-- R65, R67: CMDWORD answers a next state only with a CFG in flight. -/
theorem writeCommand_of_exec {ch : ChannelSet} {te nd : Bool} {s t : State}
    (hexec : exec (.cmdword ch te nd) s = .next t) : ∃ dev, t = writeCommand dev ch te nd s := by
  simp only [exec, execCmdword] at hexec
  split at hexec
  · cases hexec
    exact ⟨_, rfl⟩
  · cases hexec

/-- Settles O41: the start of a CFG keeps the record, and the command write either latches or raises. -/
theorem configureFrame : Obligations.ConfigureFrame := by
  intro i s t hexec
  constructor
  · intro hi
    obtain ⟨ch, te, nd, addr, rfl⟩ := startConfigure_of_exec hexec hi
    obtain ⟨⟨hrecord, htimer, hparams, hpending⟩, hbus, -⟩ := startConfigure_keeps ch te nd addr s
    exact ⟨hrecord, htimer, hparams, hpending, hbus, startConfigure_answers ch te nd addr s⟩
  · rintro ⟨ch, te, nd, rfl⟩
    obtain ⟨dev, rfl⟩ := writeCommand_of_exec hexec
    rcases writeCommand_cases dev ch te nd s with ⟨_, _, hwrite⟩ | ⟨e, _, hwrite⟩
    · rw [hwrite]
      exact ⟨rfl, rfl, rfl, .inr ⟨rfl, rfl, rfl⟩⟩
    · rw [hwrite]
      exact ⟨rfl, rfl, rfl, .inl ⟨rfl, rfl, rfl⟩⟩

end Sys2Proof.Proofs
end

section
/-! THEOREMS. The configure family (40_configure.md): how CFG's command write ends (R65, R67), the settle
event that answers it (R66, R69), and the whole operation of R64, with and without a reset that cuts it
off (R106). -/

namespace Sys2Proof.Proofs

open Sys2Proof.Machine

/-! ### The ends of the command write and of the settle wait -/

/-- R65, R66: a command write that succeeds is followed by the latch. -/
theorem writeCommand_ok {bytes : List Byte} {s : State} (hok : busResult 0 s = .ok bytes)
    (dev : DevAddr) (ch : ChannelSet) (t nd : Bool) :
    writeCommand dev ch t nd s =
      latchConfiguration ch t nd dev (issue (.write dev (commandFrame ch t nd)) s) := by
  rw [writeCommand, hok, finishCommand]

/-- R67, R88: a command write that fails passes the transport's error on, with no latch. -/
theorem writeCommand_error {e : ErrorValue} {s : State} (hfail : busResult 0 s = .error e)
    (dev : DevAddr) (ch : ChannelSet) (t nd : Bool) :
    writeCommand dev ch t nd s =
      raise (.transport e) (issue (.write dev (commandFrame ch t nd)) s) := by
  rw [writeCommand, hfail, finishCommand]

/-- Settles O21: the failed write is one transaction and one error response. -/
theorem failedCommandWriteLeavesStateUnchanged :
    Obligations.FailedCommandWriteLeavesStateUnchanged := by
  intro ch t nd dev e s htr hfail
  rw [exec_cmdword_eq_writeCommand htr, writeCommand_error hfail]
  exact ⟨_, rfl, rfl, rfl, rfl, rfl, rfl, rfl, rfl, rfl⟩

/-- Settles O22: with no immediate reset presented, the settle event is the step. -/
theorem settleElapsedAnswersCfg : Obligations.SettleElapsedAnswersCfg := by
  intro s htr hphase hreset
  rw [step_settle htr hphase hreset, settleElapsed, respond, htr]

/-- R106: an immediate reset is applied as soon as nothing is in flight, in SETTLING as between
requests. -/
theorem step_immediateReset {rest : List Stimulus} {s : State} (htr : s.transfer = none)
    (hpend : s.pending = .reset :: rest) :
    step s = .next (resetBlock { s with pending := rest }) := by
  have hev : nextEvent s = .reset := by
    by_cases hphase : s.phase = .settling
    · simp [nextEvent, htr, hphase, hpend, settlingEvent]
    · simp [nextEvent_of_quiet ⟨htr, hphase⟩, hpend, hostEvent]
  simp [step, hev, takeStimulus, hpend]

/-! ### CFG as one operation -/

/-- A run of any core takes its first step and goes on from there. -/
theorem core_run_succ {M : Host.Core} {s t : M.State} (hstep : M.step s = .next t) (n : Nat) :
    M.run (n + 1) s = M.run n t := by
  simp only [Host.Core.run, hstep]

/-- A run of the machine put together from its first step and the run after it. -/
theorem run_succ_of_step {n : Nat} {s t u : State} (hstep : step s = .next t)
    (hrun : Host.Core.run core n t = .next u) : Host.Core.run core (n + 1) s = .next u :=
  (core_run_succ (M := core) hstep n).trans hrun

theorem run_one_of_step {s t : State} (hstep : step s = .next t) :
    Host.Core.run core 1 s = .next t :=
  run_succ_of_step hstep rfl

/-- R64: a CFG request that the host can present is the start of a CFG with the request's operands. -/
theorem step_cfg_request {r : Request} {rest : List Stimulus} {s : State} (hq : Quiet s)
    (hpend : s.pending = .request r :: rest) (hop : r.op = opCfg) :
    step s = .next
      (startConfigure r.ch r.t r.nd (r.addr.getD devAddrDefault) { s with pending := rest }) :=
  step_request hq hpend (decode_request_cfg hop)

/-- The state between a CFG request's first step and its command write: the request is taken, and its
operands are in flight (R64, log 1). -/
def cfgInFlight (r : Request) (rest : List Stimulus) (s : State) : State :=
  { s with
    pending := rest
    transfer := some (.command (r.addr.getD devAddrDefault) r.ch r.t r.nd) }

/-- R64: in UNCONFIGURED, a CFG request's operands go into flight. -/
theorem step_cfg_unconfigured {r : Request} {rest : List Stimulus} {s : State} (hq : Quiet s)
    (hpend : s.pending = .request r :: rest) (hop : r.op = opCfg)
    (hphase : s.phase = .unconfigured) : step s = .next (cfgInFlight r rest s) := by
  rw [step_cfg_request hq hpend hop,
    startConfigure_unconfigured (s := { s with pending := rest }) hphase]
  rfl

/-- R92: in any other phase, the request's step is its error response. -/
theorem step_cfg_configured {r : Request} {rest : List Stimulus} {s : State} (hq : Quiet s)
    (hpend : s.pending = .request r :: rest) (hop : r.op = opCfg)
    (hphase : s.phase ≠ .unconfigured) :
    step s = .next (raise .alreadyConfigured { s with pending := rest }) := by
  rw [step_cfg_request hq hpend hop,
    startConfigure_configured (s := { s with pending := rest }) hphase]

/-- R65, R70: a command write that succeeds went to the request's address, and latches its operands. -/
theorem step_cfgInFlight_ok {bytes : List Byte} {s : State} (hok : busResult 0 s = .ok bytes)
    (r : Request) (rest : List Stimulus) :
    step (cfgInFlight r rest s) = .next
      (latchConfiguration r.ch r.t r.nd (r.addr.getD devAddrDefault)
        (issue (.write (r.addr.getD devAddrDefault) (commandFrame r.ch r.t r.nd))
          (cfgInFlight r rest s))) :=
  (step_command rfl).trans
    (congrArg _ (writeCommand_ok (s := cfgInFlight r rest s) hok _ _ _ _))

/-- R67, R70: a command write that fails went to the request's address too. -/
theorem step_cfgInFlight_error {e : ErrorValue} {s : State} (hfail : busResult 0 s = .error e)
    (r : Request) (rest : List Stimulus) :
    step (cfgInFlight r rest s) = .next
      (raise (.transport e)
        (issue (.write (r.addr.getD devAddrDefault) (commandFrame r.ch r.t r.nd))
          (cfgInFlight r rest s))) :=
  (step_command rfl).trans
    (congrArg _ (writeCommand_error (s := cfgInFlight r rest s) hfail _ _ _ _))

/-- R92: outside UNCONFIGURED the pseudocode of CFG is its phase check. -/
theorem cfgWhole_configured {s : State} (hphase : s.phase ≠ .unconfigured) (ch : ChannelSet)
    (t nd : Bool) (addr : DevAddr) : cfgWhole ch t nd addr s = raise .alreadyConfigured s :=
  if_pos hphase

/-- R67: the pseudocode of a CFG whose write fails. -/
theorem cfgWhole_error {e : ErrorValue} {s : State} (hphase : s.phase = .unconfigured)
    (hfail : busResult 0 s = .error e) (ch : ChannelSet) (t nd : Bool) (addr : DevAddr) :
    cfgWhole ch t nd addr s =
      raise (.transport e) (issue (.write addr (commandFrame ch t nd)) s) := by
  simp [cfgWhole, hphase, hfail]

/-- R65, R66, R69: the pseudocode of a CFG whose write succeeds is the latch and then the settle
event. -/
theorem cfgWhole_ok {bytes : List Byte} {s : State} (hphase : s.phase = .unconfigured)
    (hok : busResult 0 s = .ok bytes) (ch : ChannelSet) (t nd : Bool) (addr : DevAddr) :
    cfgWhole ch t nd addr s =
      settleElapsed
        (latchConfiguration ch t nd addr (issue (.write addr (commandFrame ch t nd)) s)) := by
  simp [cfgWhole, hphase, hok, settleElapsed, latchConfiguration, respond]

/-- Settles O23: one step when the phase check refuses, two when the write fails, three when the settle
event answers. -/
theorem cfgRunsToItsPseudocode : Obligations.CfgRunsToItsPseudocode := by
  intro r rest s hq hpend hop hreset
  by_cases hphase : s.phase = .unconfigured
  · have hbegin := step_cfg_unconfigured hq hpend hop hphase
    cases hbus : busResult 0 s with
    | error e =>
      rw [cfgWhole_error (s := { s with pending := rest }) hphase hbus]
      exact ⟨2, by decide,
        run_succ_of_step hbegin (run_one_of_step (step_cfgInFlight_error hbus r rest))⟩
    | ok bytes =>
      rw [cfgWhole_ok (s := { s with pending := rest }) hphase hbus]
      exact ⟨3, le_rfl, run_succ_of_step hbegin
        (run_succ_of_step (step_cfgInFlight_ok hbus r rest)
          (run_one_of_step (step_settle rfl rfl hreset)))⟩
  · rw [cfgWhole_configured (s := { s with pending := rest }) hphase]
    exact ⟨1, by decide, run_one_of_step (step_cfg_configured hq hpend hop hphase)⟩

/-- Settles O58: after the latch the reset stands next, and it is taken before the settle event. -/
theorem cfgCutByResetNeverResponds : Obligations.CfgCutByResetNeverResponds := by
  intro r rest bytes s hq hpend hop hphase hok
  have hbegin := step_cfg_unconfigured hq hpend hop hphase
  have hlatch := step_cfgInFlight_ok hok r (.reset :: rest)
  rw [issue_eq] at hlatch
  exact run_succ_of_step hbegin
    (run_succ_of_step hlatch (run_one_of_step (step_immediateReset rfl rfl)))

end Sys2Proof.Proofs
end

section
/-! THEOREMS. The read-voltages family (41_read_voltages.md): the branches of RDV (R71, R72), the turn of its
loop (R73 to R76), the frame of the reads (R71, R78), and RDV as the one operation of R71. -/

namespace Sys2Proof.Proofs

open Sys2Proof.Machine

/-! ### The branches of RDV and RDT that issue nothing -/

/-- R91: outside READY, RDV is its phase check. -/
theorem exec_rdv_notReady {s : State} (hphase : s.phase ≠ .ready) :
    exec .rdv s = .next (raise .notConfigured s) := by
  simp [exec, execRdv, hphase]

/-- R72: in READY with no channel to read, RDV answers at once. -/
theorem exec_rdv_noChannel {s : State} (hready : s.phase = .ready) (hN : popcount8 s.chanEn = 0) :
    exec .rdv s = .next (respond (.voltages []) s) := by
  simp [exec, execRdv, hready, hN]

/-- R79, R91: an RDT that does not come to its read is one error response. -/
theorem exec_rdt_refused {s : State} (h : ¬ (s.phase = .ready ∧ s.tempEn = true)) :
    ∃ e, exec .rdt s = .next (raise e s) := by
  by_cases hready : s.phase = .ready
  · have htemp : s.tempEn ≠ true := fun htemp => h ⟨hready, htemp⟩
    exact ⟨.configuration tempNotEnabledMessage, by simp [exec, execRdt, hready, htemp]⟩
  · exact ⟨.notConfigured, by simp [exec, execRdt, hready]⟩

/-- R53: the count is 0 exactly when no flag is set. -/
theorem popcount8_eq_zero_iff (ch : ChannelSet) :
    popcount8 ch = 0 ↔ ∀ i : Fin 8, ch[i] = false := by
  simp [popcount8_eq_length_filter, List.filter_eq_nil_iff]

/-- R53: no more channels are enabled than there are. -/
theorem popcount8_le_eight (ch : ChannelSet) : popcount8 ch ≤ 8 :=
  Vector.count_le_size

/-- Settles O25: with every flag 0 the count is 0, and RDV answers at once. -/
theorem rdvWithNoChannelIssuesNothing : Obligations.RdvWithNoChannelIssuesNothing := by
  intro s hready hnone
  exact exec_rdv_noChannel hready ((popcount8_eq_zero_iff _).mpr hnone)

/-! ### One turn of RDV's loop -/

/-- R73, R76: the last pair, with a tag 0..7, ends the loop with every sample. -/
theorem receiveVoltagePair_last {tag : Tag} (htag : tag.toNat < 8) (raw : Datum) (index : Nat)
    (out : List Sample) (s : State) :
    receiveVoltagePair tag raw index [] out s =
      respond (.voltages (out ++ [⟨⟨tag.toNat, htag⟩, raw⟩])) s := by
  simp [receiveVoltagePair, htag]

/-- R73, R75: a pair with a tag 0..7 that is not the last adds its sample, and the next is at hand. -/
theorem receiveVoltagePair_more {tag : Tag} (htag : tag.toNat < 8) (raw : Datum) (index : Nat)
    (next : Byte × Byte) (rest : List (Byte × Byte)) (out : List Sample) (s : State) :
    receiveVoltagePair tag raw index (next :: rest) out s =
      { s with
        transfer := some (.voltages (index + 1) next rest (out ++ [⟨⟨tag.toNat, htag⟩, raw⟩])) } := by
  simp [receiveVoltagePair, htag]

/-- R74: a tag above 7 ends the loop, whatever pairs are left. -/
theorem receiveVoltagePair_invalid {tag : Tag} (htag : ¬ tag.toNat < 8) (raw : Datum) (index : Nat)
    (rest : List (Byte × Byte)) (out : List Sample) (s : State) :
    receiveVoltagePair tag raw index rest out s = raise (.decode regVolt index tag) s :=
  dif_neg htag

/-- R58: with a burst in flight, both rows of a voltage pair are one turn of the loop. -/
theorem exec_voltageWord {i : Instr} {tag : Tag} {raw : Datum} {index : Nat} {pair : Byte × Byte}
    {rest : List (Byte × Byte)} {out : List Sample} {s : State}
    (htr : s.transfer = some (.voltages index pair rest out))
    (hi : i = .vsample tag raw ∨ i = .vsampleInvalid tag raw) :
    exec i s = .next (receiveVoltagePair tag raw index rest out s) := by
  rcases hi with rfl | rfl
  · simp only [exec, execVsample, htr]
  · simp only [exec, execVsampleInvalid, htr]

/-- Settles O29: the loop goes on exactly when a pair is left. -/
theorem voltagePairBecomesSample : Obligations.VoltagePairBecomesSample := by
  intro tag raw index pair rest out s htag htr i hi
  rw [exec_voltageWord htr hi]
  constructor
  · rintro rfl
    rw [receiveVoltagePair_last htag]
    rfl
  · rintro next rest' rfl
    rw [receiveVoltagePair_more htag]

/-- Settles O30: the tag is judged first, so neither the samples so far nor the pairs left play a part. -/
theorem invalidVoltagePairFailsWholeRead : Obligations.InvalidVoltagePairFailsWholeRead := by
  intro tag raw index pair rest out s htag htr i hi
  rw [exec_voltageWord htr hi, receiveVoltagePair_invalid (by omega)]
  rfl

/-! ### The frame of the reads -/

theorem respond_readKeeps (r : Response) (s : State) : ReadKeeps s (respond r s) :=
  ⟨rfl, rfl, rfl, rfl⟩

/-- R71: in each of its branches, RDV's own step writes nothing of `S`. -/
theorem readKeeps_of_exec_rdv {s t : State} (hexec : exec .rdv s = .next t) : ReadKeeps s t := by
  by_cases hready : s.phase = .ready
  · rcases Nat.eq_zero_or_pos (popcount8 s.chanEn) with hN | hN
    · cases (exec_rdv_noChannel hready hN).symm.trans hexec
      exact respond_readKeeps _ s
    · cases (exec_rdv_eq_startRead hready hN).symm.trans hexec
      exact (startRead_keeps .voltage (2 * popcount8 s.chanEn) s).1
  · cases (exec_rdv_notReady hready).symm.trans hexec
    exact respond_readKeeps _ s

/-- R78: the same of RDT. -/
theorem readKeeps_of_exec_rdt {s t : State} (hexec : exec .rdt s = .next t) : ReadKeeps s t := by
  by_cases hgate : s.phase = .ready ∧ s.tempEn = true
  · obtain ⟨hready, htemp⟩ := hgate
    cases (exec_rdt_eq_startRead hready htemp).symm.trans hexec
    exact (startRead_keeps .temperature 2 s).1
  · obtain ⟨e, hrefused⟩ := exec_rdt_refused hgate
    cases hrefused.symm.trans hexec
    exact respond_readKeeps _ s

/-- R58: a voltage pair answers a next state only with a burst in flight. -/
theorem receiveVoltagePair_of_exec {i : Instr} {tag : Tag} {raw : Datum} {s t : State}
    (hi : i = .vsample tag raw ∨ i = .vsampleInvalid tag raw) (hexec : exec i s = .next t) :
    ∃ index rest out, t = receiveVoltagePair tag raw index rest out s := by
  rcases hi with rfl | rfl
  · simp only [exec, execVsample] at hexec
    split at hexec <;> cases hexec
    exact ⟨_, _, _, rfl⟩
  · simp only [exec, execVsampleInvalid] at hexec
    split at hexec <;> cases hexec
    exact ⟨_, _, _, rfl⟩

/-- R59: a temperature pair answers a next state only with an RDT's pair in flight. -/
theorem receiveTemperature_of_exec {raw : Datum} {s t : State}
    (hexec : exec (.tsample raw) s = .next t) : t = receiveTemperature raw s := by
  simp only [exec, execTsample] at hexec
  split at hexec <;> cases hexec
  rfl

/-- R73 to R76: a turn of RDV's loop writes nothing of `S` and issues nothing. -/
theorem voltageWord_keeps {i : Instr} {tag : Tag} {raw : Datum} {s t : State}
    (hi : i = .vsample tag raw ∨ i = .vsampleInvalid tag raw) (hexec : exec i s = .next t) :
    ReadKeeps s t ∧ t.bus = s.bus ∧ t.answers = s.answers ∧ t.draws = s.draws := by
  obtain ⟨index, rest, out, rfl⟩ := receiveVoltagePair_of_exec hi hexec
  obtain ⟨hkeeps, hbus, hanswers, hdraws, -⟩ := receiveVoltagePair_keeps tag raw index rest out s
  exact ⟨hkeeps, hbus, hanswers, hdraws⟩

/-- The clauses of the frame of the reads, from the frame lemma of one of them. -/
theorem readFrame_intro {s t : State} {p : Prop} (hkeeps : ReadKeeps s t) (hp : p) :
    t.record = s.record ∧ t.timer = s.timer ∧ t.params = s.params ∧ t.pending = s.pending ∧ p := by
  obtain ⟨hrecord, htimer, hparams, hpending⟩ := hkeeps
  exact ⟨hrecord, htimer, hparams, hpending, hp⟩

/-- Settles O40: instruction by instruction. -/
theorem readsLeaveTheRecordUnchanged : Obligations.ReadsLeaveTheRecordUnchanged := by
  rintro i s t hexec (rfl | rfl | ⟨tag, raw, rfl⟩ | ⟨tag, raw, rfl⟩ | ⟨raw, rfl⟩)
  · exact readFrame_intro (readKeeps_of_exec_rdv hexec) fun hrdv => absurd rfl hrdv
  · exact readFrame_intro (readKeeps_of_exec_rdt hexec) fun _ hrdt => absurd rfl hrdt
  · obtain ⟨hkeeps, hbus⟩ := voltageWord_keeps (.inl rfl) hexec
    exact readFrame_intro hkeeps fun _ _ => hbus
  · obtain ⟨hkeeps, hbus⟩ := voltageWord_keeps (.inr rfl) hexec
    exact readFrame_intro hkeeps fun _ _ => hbus
  · cases receiveTemperature_of_exec hexec
    exact readFrame_intro (respond_readKeeps _ s) fun _ _ => ⟨rfl, rfl, rfl⟩

/-! ### Runs of at most so many steps -/

/-- The machine gets from `s` to `t` in at most `n` steps. -/
def RunsWithin (n : Nat) (s t : State) : Prop :=
  ∃ m, m ≤ n ∧ Host.Core.run core m s = .next t

theorem runsWithin_refl (n : Nat) (s : State) : RunsWithin n s s :=
  ⟨0, n.zero_le, rfl⟩

theorem runsWithin_of_step {n : Nat} {s t u : State} (hstep : step s = .next t)
    (hrun : RunsWithin n t u) : RunsWithin (n + 1) s u := by
  obtain ⟨m, hm, hrun⟩ := hrun
  exact ⟨m + 1, Nat.succ_le_succ hm, run_succ_of_step hstep hrun⟩

theorem RunsWithin.mono {m n : Nat} {s t : State} (hrun : RunsWithin m s t) (hmn : m ≤ n) :
    RunsWithin n s t := by
  obtain ⟨k, hk, hrun⟩ := hrun
  exact ⟨k, hk.trans hmn, hrun⟩

/-! ### A whole burst -/

/-- The pair is of the VSAMPLE row: its tag names a channel (R58). -/
def IsVoltageSample (p : Byte × Byte) : Prop := (pairTag p.1).toNat < 8

/-- R76: a valid pair's sample has the channel of its tag, with nothing cut off. -/
theorem sampleOf_eq {p : Byte × Byte} (hp : IsVoltageSample p) :
    sampleOf p = ⟨⟨(pairTag p.1).toNat, hp⟩, pairRaw p.1 p.2⟩ := by
  simp only [sampleOf, Nat.mod_eq_of_lt hp]

/-- A pair is not bad, as `burstResponse` tests it, exactly when it is valid. -/
theorem not_badTag_iff {p : Byte × Byte} :
    decide (7 < (pairTag p.1).toNat) = false ↔ IsVoltageSample p := by
  simp [IsVoltageSample, Nat.lt_succ_iff]

/-- R73, R76: a burst of valid pairs is answered with their samples. -/
theorem burstResponse_valid {pairs : List (Byte × Byte)} (hvalid : ∀ p ∈ pairs, IsVoltageSample p) :
    burstResponse pairs = .voltages (pairs.map sampleOf) := by
  have hnone : (pairs.findIdx? fun p => decide (7 < (pairTag p.1).toNat)) = none :=
    List.findIdx?_eq_none_iff.mpr fun p hp => not_badTag_iff.mpr (hvalid p hp)
  rw [burstResponse, hnone]

/-- R74: a bad pair after valid ones is the lowest bad one, and its index counts them. -/
theorem burstResponse_firstInvalid {done : List (Byte × Byte)} {pair : Byte × Byte}
    (hdone : ∀ p ∈ done, IsVoltageSample p) (hpair : ¬ IsVoltageSample pair)
    (rest : List (Byte × Byte)) :
    burstResponse (done ++ pair :: rest) =
      .error (.decode regVolt done.length (pairTag pair.1)) := by
  have hbad : decide (7 < (pairTag pair.1).toNat) = true :=
    (Bool.eq_false_or_eq_true _).resolve_right (hpair ∘ not_badTag_iff.mp)
  have hnone : (done.findIdx? fun p => decide (7 < (pairTag p.1).toNat)) = none :=
    List.findIdx?_eq_none_iff.mpr fun p hp => not_badTag_iff.mpr (hdone p hp)
  have hsome : ((done ++ pair :: rest).findIdx? fun p => decide (7 < (pairTag p.1).toNat)) =
      some done.length := by
    simp [List.findIdx?_append, hnone, List.findIdx?_cons, hbad]
  rw [burstResponse, hsome]
  simp [tagAt]

/-- R74: the turn of the first bad pair is the response to the whole burst. -/
theorem receiveVoltagePair_firstInvalid {done : List (Byte × Byte)} {pair : Byte × Byte}
    (hdone : ∀ p ∈ done, IsVoltageSample p) (hpair : ¬ IsVoltageSample pair)
    (rest : List (Byte × Byte)) (out : List Sample) (s : State) :
    receiveVoltagePair (pairTag pair.1) (pairRaw pair.1 pair.2) done.length rest out s =
      respond (burstResponse (done ++ pair :: rest)) s := by
  rw [receiveVoltagePair_invalid hpair, burstResponse_firstInvalid hdone hpair]
  rfl

/-- R71: with the pairs `done` turned into samples, the loop runs to the response to the whole burst, in
at most one step for each pair left. -/
theorem burst_runsWithin {pair : Byte × Byte} {rest done : List (Byte × Byte)} {s : State}
    (hdone : ∀ p ∈ done, IsVoltageSample p)
    (htr : s.transfer = some (.voltages done.length pair rest (done.map sampleOf))) :
    RunsWithin (rest.length + 1) s (respond (burstResponse (done ++ pair :: rest)) s) := by
  induction rest generalizing pair done s with
  | nil =>
    refine runsWithin_of_step (step_voltagePair htr) ?_
    by_cases hpair : IsVoltageSample pair
    · have hall : ∀ p ∈ done ++ [pair], IsVoltageSample p :=
        List.forall_mem_append.mpr ⟨hdone, List.forall_mem_singleton.mpr hpair⟩
      rw [receiveVoltagePair_last hpair, ← sampleOf_eq hpair, burstResponse_valid hall,
        List.map_append]
      exact runsWithin_refl _ _
    · rw [receiveVoltagePair_firstInvalid hdone hpair]
      exact runsWithin_refl _ _
  | cons next rest ih =>
    refine runsWithin_of_step (step_voltagePair htr) ?_
    by_cases hpair : IsVoltageSample pair
    · have hall : ∀ p ∈ done ++ [pair], IsVoltageSample p :=
        List.forall_mem_append.mpr ⟨hdone, List.forall_mem_singleton.mpr hpair⟩
      have hnext : RunsWithin (rest.length + 1)
          (receiveVoltagePair (pairTag pair.1) (pairRaw pair.1 pair.2) done.length (next :: rest)
            (done.map sampleOf) s)
          (respond (burstResponse (done ++ [pair] ++ next :: rest)) s) := by
        rw [receiveVoltagePair_more hpair, ← sampleOf_eq hpair]
        exact ih hall (by simp)
      rwa [← List.append_cons] at hnext
    · rw [receiveVoltagePair_firstInvalid hdone hpair]
      exact runsWithin_refl _ _

/-! ### RDV as one operation -/

/-- What R71's pseudocode does with the end of its BusRead: the response to the burst, or the transport's
error. -/
def answerBurst (result : BusResult) (s : State) : State :=
  match result with
  | .ok bytes => respond (burstResponse (pairsOf bytes)) s
  | .error e => raise (.transport e) s

/-- The operation in flight plays no part in how an RDV ends: its response ends it. -/
theorem answerBurst_transfer (result : BusResult) (tr : Option Transfer) (s : State) :
    answerBurst result { s with transfer := tr } = answerBurst result s := by
  cases result <;> rfl

/-- R91: the pseudocode of RDV outside READY. -/
theorem rdvWhole_notReady {s : State} (hphase : s.phase ≠ .ready) :
    rdvWhole s = raise .notConfigured s :=
  if_pos hphase

/-- R72: the pseudocode of RDV with no channel enabled. -/
theorem rdvWhole_noChannel {s : State} (hready : s.phase = .ready) (hN : popcount8 s.chanEn = 0) :
    rdvWhole s = respond (.voltages []) s := by
  simp [rdvWhole, hready, hN]

/-- R71, R77: the pseudocode of RDV past its checks is one BusRead and the answer to its burst. -/
theorem rdvWhole_read {s : State} (hready : s.phase = .ready) (hN : 0 < popcount8 s.chanEn) :
    rdvWhole s =
      answerBurst (busReadWhole .voltage (2 * popcount8 s.chanEn) s).1
        (busReadWhole .voltage (2 * popcount8 s.chanEn) s).2 := by
  rw [rdvWhole, if_neg (not_not.mpr hready), if_neg hN.ne']
  obtain ⟨result, u⟩ := busReadWhole .voltage (2 * popcount8 s.chanEn) s
  cases result <;> rfl

/-- R71: the end of a read of `2*N` bytes runs to the answer to its burst in at most `N` steps. -/
theorem finishRead_voltage_runsWithin {n : Nat} {result : BusResult} (hn : 0 < n)
    (hlen : ∀ bytes, result = .ok bytes → bytes.length = 2 * n) (s : State) :
    RunsWithin n (finishRead .voltage result s) (answerBurst result s) := by
  cases result with
  | error e => exact runsWithin_refl n _
  | ok bytes =>
    obtain ⟨pair, rest, hpairs, rfl⟩ := pairsOf_eq_cons hn (hlen bytes rfl)
    rw [finishRead, deliver_voltage_cons hpairs, answerBurst, hpairs]
    exact burst_runsWithin (done := []) (by simp) rfl

/-- R31, R71: once RDV has begun its read, in either form, it runs to the answer to its burst: the data
phase of a split read, and then at most one step for each pair. -/
theorem startRead_voltage_runsWithin {n : Nat} (hn : 0 < n) (s : State) :
    RunsWithin (n + 1) (startRead .voltage (2 * n) s)
      (answerBurst (busReadWhole .voltage (2 * n) s).1 (busReadWhole .voltage (2 * n) s).2) := by
  cases hform : s.params.combinedRead with
  | true =>
    simp only [startRead, busReadWhole, hform, if_true]
    exact (finishRead_voltage_runsWithin hn (fun _ => busResult_length) _).mono n.le_succ
  | false =>
    cases haddr : busResult 0 s with
    | error e =>
      simp only [startRead, busReadWhole, hform, haddr, finishAddressPhase]
      exact runsWithin_refl _ _
    | ok sent =>
      rw [startRead_split hform haddr]
      simp only [busReadWhole, hform, haddr]
      refine runsWithin_of_step (step_readData rfl) ?_
      rw [← answerBurst_transfer _ (some (.awaitData .voltage (2 * n)))]
      exact finishRead_voltage_runsWithin hn (fun _ => busResult_length) _

/-- R43: op 0x01 is RDV, whatever operands the record carries (R63). -/
theorem decode_request_rdv {r : Request} (hop : r.op = opRdv) :
    decode (.request r) = .instr .rdv := by
  simp [decode, decodeRequest, hop, opRdv, opCfg]

/-- Settles O31: one step for the request, one for the data phase of a split read, and at most one for
each of at most eight pairs. -/
theorem rdvRunsToItsPseudocode : Obligations.RdvRunsToItsPseudocode := by
  intro r rest s hq hpend hop
  have hstep := step_request hq hpend (decode_request_rdv hop)
  generalize ({ s with pending := rest } : State) = u at hstep ⊢
  suffices h : RunsWithin 10 s (rdvWhole u) from h
  by_cases hready : u.phase = .ready
  · rcases Nat.eq_zero_or_pos (popcount8 u.chanEn) with hN | hN
    · rw [rdvWhole_noChannel hready hN]
      exact runsWithin_of_step (hstep.trans (exec_rdv_noChannel hready hN)) (runsWithin_refl _ _)
    · rw [rdvWhole_read hready hN]
      have hbound := popcount8_le_eight u.chanEn
      exact runsWithin_of_step (hstep.trans (exec_rdv_eq_startRead hready hN))
        ((startRead_voltage_runsWithin hN u).mono (by omega))
  · rw [rdvWhole_notReady hready]
    exact runsWithin_of_step (hstep.trans (exec_rdv_notReady hready)) (runsWithin_refl _ _)

end Sys2Proof.Proofs
end

section
/-! THEOREMS. The read-temperature family (42_read_temperature.md): the datum and its Celsius value (R81, R82),
the branches of RDT that issue nothing (R79, R91), the step of its pair (R80 to R82), and RDT as the one
operation of R78. -/

namespace Sys2Proof.Proofs

open Sys2Proof.Machine

/-! ### The datum and its Celsius value -/

/-- Settles O10: the two branches of `sext12` are the two cases, and both read two's complement. -/
theorem temperatureDatumIsTwosComplement : Obligations.TemperatureDatumIsTwosComplement := by
  intro raw
  exact ⟨fun hlow => if_neg (not_lt.mpr hlow), fun hhigh => if_pos hhigh, sext12_eq_toInt raw⟩

/-- R81: only the datum 0 stands for the temperature 0. -/
theorem sext12_eq_zero_iff (raw : Datum) : sext12 raw = 0 ↔ raw = 0#12 := by
  rw [sext12_eq_toInt, ← BitVec.toInt_inj, BitVec.toInt_zero]

/-- A number moved up until its top bit is bit `p - 1` has exactly `p` bits. -/
theorem shiftLeft_to_width {n p : Nat} (hn : n ≠ 0) (hfits : n.log2 < p) :
    2 ^ (p - 1) ≤ n <<< (p - 1 - n.log2) ∧ n <<< (p - 1 - n.log2) < 2 ^ p := by
  obtain ⟨k, rfl⟩ : ∃ k, p = n.log2 + 1 + k := Nat.exists_eq_add_of_le hfits
  have hlow : n.log2 + 1 + k - 1 = n.log2 + k := by omega
  rw [hlow, Nat.add_sub_cancel_left, Nat.shiftLeft_eq, pow_add, pow_add]
  exact ⟨Nat.mul_le_mul_right _ (Nat.log2_self_le hn),
    Nat.mul_lt_mul_of_pos_right Nat.lt_log2_self (Nat.two_pow_pos k)⟩

/-- Settles O12: a nonzero datum's magnitude is not 0 and has at most 12 bits, so it fills the width. -/
theorem binaryCelsiusFitsItsSignificand : Obligations.BinaryCelsiusFitsItsSignificand := by
  intro p raw hwidth hraw
  have hq : sext12 raw ≠ 0 := mt (sext12_eq_zero_iff raw).mp hraw
  exact ⟨_, _, _, if_neg hq, shiftLeft_to_width (Int.natAbs_ne_zero.mpr hq)
    ((log2_natAbs_sext12_lt raw).trans_le hwidth)⟩

/-- R9: the representation of legal parameters is legal. -/
theorem celsiusRepr_legal_of_legal {p : Params} (h : p.legal = true) : p.celsiusRepr.legal = true := by
  simp only [Params.legal, Bool.and_eq_true] at h
  exact h.2

/-- Settles O34: the answer holds the datum in two's complement, in the representation of the parameters,
and a legal one does not round. -/
theorem temperaturePairIsAnswered : Obligations.TemperaturePairIsAnswered := by
  intro raw hi lo s htr
  refine ⟨celsiusOf s.params.celsiusRepr (sext12 raw), ?_, fun hlegal => ?_⟩
  · simp only [exec, execTsample, htr, receiveTemperature, respond, sext12_eq_toInt]
  · rw [celsiusValueIsExactQuarter _ raw (celsiusRepr_legal_of_legal hlegal), sext12_eq_toInt]

/-! ### The branches of RDT that issue nothing, and the step of its pair -/

/-- R91: outside READY, RDT is its phase check. -/
theorem exec_rdt_notReady {s : State} (hphase : s.phase ≠ .ready) :
    exec .rdt s = .next (raise .notConfigured s) := by
  simp [exec, execRdt, hphase]

/-- R79: in READY with temperature disabled, RDT is its gate. -/
theorem exec_rdt_notEnabled {s : State} (hready : s.phase = .ready) (htemp : s.tempEn = false) :
    exec .rdt s = .next (raise (.configuration tempNotEnabledMessage) s) := by
  simp [exec, execRdt, hready, htemp]

/-- Settles O32: the gate's error is the whole of the step. -/
theorem rdtWithoutTemperatureIsConfigurationError :
    Obligations.RdtWithoutTemperatureIsConfigurationError :=
  fun _ hready htemp => exec_rdt_notEnabled hready htemp

/-- R57: the tag is the high nibble as a number. -/
theorem pairTag_toNat (hi : Byte) : (pairTag hi).toNat = hi.toNat / 16 := by
  have hbyte : hi.toNat < 256 := hi.isLt
  rw [pairTag, BitVec.extractLsb'_toNat, Nat.shiftRight_eq_div_pow]
  omega

/-- Settles O35: a high nibble other than 8 is a tag that no TSAMPLE has. -/
theorem wrongTemperatureTagIsDecodeError : Obligations.WrongTemperatureTagIsDecodeError := by
  intro hi lo s htr hnibble
  refine step_temperature_bad htr fun htag => hnibble ?_
  rw [← pairTag_toNat, htag]
  rfl

/-- R80 to R82: whatever its tag, the step of RDT's pair is the response to it. -/
theorem step_temperaturePair {hi lo : Byte} {s : State}
    (htr : s.transfer = some (.temperature hi lo)) :
    step s = .next (respond (temperatureResponse s.params.celsiusRepr hi lo) s) := by
  by_cases htag : pairTag hi = tempTag
  · rw [step_temperature htr htag, temperatureResponse, if_pos htag, receiveTemperature]
  · rw [step_temperature_bad htr htag, temperatureResponse, if_neg htag, raise]

/-! ### RDT as one operation -/

/-- What R78's pseudocode does with the end of its BusRead: the response to the pair, or the transport's
error. -/
def answerTemperature (result : BusResult) (s : State) : State :=
  match result with
  | .ok bytes =>
    respond (temperatureResponse s.params.celsiusRepr (bytes.getD 0 0) (bytes.getD 1 0)) s
  | .error e => raise (.transport e) s

/-- A read writes no parameter (log 13). -/
theorem busReadWhole_params (reg : ResultReg) (received : Nat) (s : State) :
    (busReadWhole reg received s).2.params = s.params := by
  unfold busReadWhole
  split
  · rfl
  · cases busResult 0 s <;> rfl

/-- R91: the pseudocode of RDT outside READY. -/
theorem rdtWhole_notReady {s : State} (hphase : s.phase ≠ .ready) :
    rdtWhole s = raise .notConfigured s :=
  if_pos hphase

/-- R79: the pseudocode of RDT with temperature disabled. -/
theorem rdtWhole_notEnabled {s : State} (hready : s.phase = .ready) (htemp : s.tempEn = false) :
    rdtWhole s = raise (.configuration tempNotEnabledMessage) s := by
  simp [rdtWhole, hready, htemp]

/-- R78, R85: the pseudocode of RDT past its checks is one BusRead of two bytes and the answer to them. -/
theorem rdtWhole_read {s : State} (hready : s.phase = .ready) (htemp : s.tempEn = true) :
    rdtWhole s =
      answerTemperature (busReadWhole .temperature 2 s).1 (busReadWhole .temperature 2 s).2 := by
  have hparams := busReadWhole_params .temperature 2 s
  rw [rdtWhole, if_neg (not_not.mpr hready), if_neg (by simp [htemp]), ← hparams]
  obtain ⟨result, u⟩ := busReadWhole .temperature 2 s
  cases result <;> rfl

/-- The operation in flight plays no part in how a read ends: its bytes or its error replace it. -/
theorem finishRead_transfer (reg : ResultReg) (result : BusResult) (tr : Option Transfer) (s : State) :
    finishRead reg result { s with transfer := tr } = finishRead reg result s := by
  cases result with
  | error e => rfl
  | ok bytes =>
    cases reg with
    | temperature => rfl
    | voltage =>
      simp only [finishRead, deliver]
      cases pairsOf bytes <;> rfl

/-- R31: either form of a read comes to the end of its BusRead, a split one with its data phase as one
step more. -/
theorem startRead_runsWithin {reg : ResultReg} {received n : Nat} {s t : State}
    (hend : RunsWithin n
      (finishRead reg (busReadWhole reg received s).1 (busReadWhole reg received s).2) t) :
    RunsWithin (n + 1) (startRead reg received s) t := by
  cases hform : s.params.combinedRead with
  | true =>
    simp only [busReadWhole, hform, if_true] at hend
    simp only [startRead, hform, if_true]
    exact hend.mono n.le_succ
  | false =>
    cases haddr : busResult 0 s with
    | error e =>
      simp only [busReadWhole, hform, haddr] at hend
      simp only [startRead, hform, haddr]
      exact hend.mono n.le_succ
    | ok sent =>
      simp only [busReadWhole, hform, haddr] at hend
      rw [startRead_split hform haddr]
      refine runsWithin_of_step (step_readData rfl) ?_
      rwa [← finishRead_transfer reg _ (some (.awaitData reg received))] at hend

/-- R78: the end of RDT's read runs to the answer to its pair, in one step when the read delivers. -/
theorem finishRead_temperature_runsWithin (result : BusResult) (s : State) :
    RunsWithin 1 (finishRead .temperature result s) (answerTemperature result s) := by
  cases result with
  | error e => exact runsWithin_refl 1 _
  | ok bytes => exact runsWithin_of_step (step_temperaturePair rfl) (runsWithin_refl 0 _)

/-- R43: op 0x02 is RDT, whatever operands the record carries (R63). -/
theorem decode_request_rdt {r : Request} (hop : r.op = opRdt) :
    decode (.request r) = .instr .rdt := by
  simp [decode, decodeRequest, hop, opRdt, opRdv, opCfg]

/-- Settles O36: one step for the request, one for the data phase of a split read, and one for the pair. -/
theorem rdtRunsToItsPseudocode : Obligations.RdtRunsToItsPseudocode := by
  intro r rest s hq hpend hop
  have hstep := step_request hq hpend (decode_request_rdt hop)
  generalize ({ s with pending := rest } : State) = u at hstep ⊢
  suffices h : RunsWithin 3 s (rdtWhole u) from h
  by_cases hready : u.phase = .ready
  · cases htemp : u.tempEn with
    | false =>
      rw [rdtWhole_notEnabled hready htemp]
      exact runsWithin_of_step (hstep.trans (exec_rdt_notEnabled hready htemp)) (runsWithin_refl _ _)
    | true =>
      rw [rdtWhole_read hready htemp]
      exact runsWithin_of_step (hstep.trans (exec_rdt_eq_startRead hready htemp))
        (startRead_runsWithin (finishRead_temperature_runsWithin _ _))
  · rw [rdtWhole_notReady hready]
    exact runsWithin_of_step (hstep.trans (exec_rdt_notReady hready)) (runsWithin_refl _ _)

end Sys2Proof.Proofs
end

section
/-! THEOREMS. The exceptions family (60_exceptions.md): what an error response leaves unchanged (R95, R97), the
machine that never stops (R86, R96), and the errors of R91 and R93 with the statuses of R87. -/

namespace Sys2Proof.Proofs

open Sys2Proof.Machine

/-! ### What an error leaves unchanged -/

/-- Settles O51: the three steps that write `S` give no error, since the latch and reset do not respond and
the settle event responds `OK`; a step that keeps `S` and responds is counted by `Answers`. -/
theorem errorsChangeNoFieldOfTheRecord : Obligations.ErrorsChangeNoFieldOfTheRecord := by
  intro s t e hst hresp
  rcases step_record_cases hst with ⟨hk, _⟩ | ⟨dev, ch, te, nd, _, rfl⟩ | ⟨_, rfl⟩ | ⟨_, rfl⟩
  · rcases hk.answers with ⟨_, hsame⟩ | ⟨hcount, hended, _⟩
    · simp [hsame] at hresp
    · exact ⟨hk.record, hk.timer, hended, hcount⟩
  · simp at hresp
  · simp at hresp
  · simp at hresp

/-! ### A next state in every state -/

/-- R43, R46: what a request decodes to is CFG, RDV or RDT, and none of the three looks for an operation in
flight or is refused. -/
theorem exec_of_decode_request {r : Request} {i : Instr} (hdec : decode (.request r) = .instr i)
    (s : State) : ∃ t, exec i s = .next t := by
  rcases decodeRequest_cases r with ⟨_, h⟩ | ⟨_, h⟩ | ⟨_, h⟩ | ⟨_, h⟩ <;> cases h.symm.trans hdec
  · exact ⟨startConfigure r.ch r.t r.nd (r.addr.getD devAddrDefault) s, rfl⟩
  · exact ⟨_, rfl⟩
  · exact ⟨_, rfl⟩

/-- Settles O53: each word of an operation is run with that operation in flight, and a request is run or
answered. -/
theorem stepAlwaysAnswersNext : Obligations.StepAlwaysAnswersNext := by
  intro s
  rcases step_cases s with
    ⟨_, _, _, _, _, hs⟩ | ⟨_, _, _, hs⟩ | ⟨_, _, _, _, _, hs⟩ | ⟨_, _, _, _, hs⟩ |
    ⟨_, _, _, _, hs⟩ | ⟨_, _, _, hs⟩ | ⟨_, _, hs⟩ | ⟨_, _, _, hs⟩ |
    ⟨_, _, r, rest, _, ⟨i, hdec, hs⟩ | ⟨rej, _, hs⟩⟩
  on_goal 9 =>
    obtain ⟨t, hexec⟩ := exec_of_decode_request hdec (takeStimulus s)
    exact ⟨t, hs.trans hexec⟩
  all_goals exact ⟨_, hs⟩

/-! ### The errors of R91 and R93, and the statuses -/

/-- Settles O24: both reads check the phase before anything else. -/
theorem readsOutsideReadyAreNotConfigured : Obligations.ReadsOutsideReadyAreNotConfigured := by
  intro s hphase i hi
  rcases hi with rfl | rfl
  · exact exec_rdv_notReady hphase
  · exact exec_rdt_notReady hphase

/-- R62: when the host can act, a request that the decoder rejects is answered and not run. -/
theorem step_request_reject {r : Request} {rest : List Stimulus} {rej : Reject} {s : State}
    (hq : Quiet s) (hpend : s.pending = .request r :: rest)
    (hdec : decode (.request r) = .reject rej) :
    step s = .next (answerReject rej { s with pending := rest }) := by
  simp [step, nextEvent_of_quiet hq, hpend, hostEvent, hdec, advance, takeStimulus]

/-- Settles O38: the decoder rejects the code in every phase, and where the host can act there is no
operation in flight for the error to end. -/
theorem reservedOpCodeIsIllegalOp : Obligations.ReservedOpCodeIsIllegalOp := by
  intro r rest s hq hpend hop
  obtain ⟨_, _, _, hreserved⟩ := requestDecodingIsTotalOnOpCodes r
  have htr : s.transfer = none := hq.1
  rw [step_request_reject hq hpend (hreserved hop), answerReject, raise, respond, ← htr]

/-- Settles O39: the status of a response is read off its constructor, and that of an error off its class. -/
theorem statusCodesAreThoseOfTheTable : Obligations.StatusCodesAreThoseOfTheTable := by
  intro w samples q c e m reg pair tag op
  exact ⟨rfl, rfl, rfl, rfl, rfl, rfl, rfl, rfl, rfl⟩

end Sys2Proof.Proofs
end

section
/-! THEOREMS. The reset and hazards family (70_reset_and_hazards.md): the fields of R104 and the invariant
after reset, reset in the two places of R106, and the end of a run (R115). -/

namespace Sys2Proof.Proofs

open Sys2Proof.Machine

/-! ### The state after reset -/

/-- R104: no channel is a member of the empty ChannelSet. -/
theorem noChannels_getElem (i : Fin 8) : noChannels[i] = false := by
  revert i
  decide

/-- Settles O44: every field is read off the reset state, and its ChannelSet is the empty one. -/
theorem resetStateIsThatOfTheSpec : Obligations.ResetStateIsThatOfTheSpec :=
  ⟨rfl, noChannels_getElem, rfl, rfl, rfl, rfl, rfl⟩

/-- R26: outside SETTLING a stopped settle timer is as it must be. -/
theorem timerOk_of_stopped {s : State} (hphase : s.phase ≠ .settling) (htimer : s.timer = none) :
    timerOk s := by
  simp [timerOk, hphase, htimer]

/-- R9: the default parameters are legal. -/
theorem params_default_legal : Params.default.legal = true := by decide

/-- Settles O56: the parameters are the default ones, the timer is stopped, and nothing is in flight for
`transferOk` to ask about. -/
theorem resetMeetsTheInvariant : Obligations.ResetMeetsTheInvariant where
  params := params_default_legal
  timer := timerOk_of_stopped (by decide) rfl
  transfer := trivial

/-! ### Reset applied -/

/-- R104, R105: the block's fields become those of the reset state, and the rest of the state stays
(log 10). -/
theorem resetBlock_eq (s : State) :
    resetBlock s = { State.reset with
      params := s.params, pending := s.pending, answers := s.answers, draws := s.draws
      responses := s.responses, bus := s.bus } :=
  rfl

/-- R106: when the host can act, a reset between requests is applied. -/
theorem step_resetBetweenRequests {rest : List Stimulus} {s : State} (hq : Quiet s)
    (hpend : s.pending = .resetBetweenRequests :: rest) :
    step s = .next (resetBlock { s with pending := rest }) := by
  have hev : nextEvent s = .reset := by rw [nextEvent_of_quiet hq, hpend, hostEvent]
  simp [step, hev, takeStimulus, hpend]

/-- Settles O45: either kind of reset is taken from the host's list and applied to the block, an immediate
one in SETTLING too. -/
theorem resetCancelsSettlingWithoutResponse : Obligations.ResetCancelsSettlingWithoutResponse := by
  intro x rest s htr hpend hx
  suffices happlied : step s = .next (resetBlock { s with pending := rest }) by
    rw [happlied, resetBlock_eq]
  rcases hx with rfl | ⟨rfl, hphase⟩
  · exact step_immediateReset htr hpend
  · exact step_resetBetweenRequests ⟨htr, hphase⟩ hpend

/-! ### The end of a run -/

/-- Settles O55: the host can act and presents nothing, so the block waits. -/
theorem runOverIsStable : Obligations.RunOverIsStable := by
  intro s ⟨hpend, hquiet⟩
  have hev : nextEvent s = .idle := by rw [nextEvent_of_quiet hquiet, hpend, hostEvent]
  simp only [step, hev]

end Sys2Proof.Proofs
end
